-- ==== Sys2Proof/Word.lean ====
section
/-! DEFINITION. The plain value types of the block (spec/00_scope.md R7, R8, R9, R21): register bytes, register
offsets, command words, operand words, cycle numbers and output samples. Nothing here is an operation of the block. -/

namespace Sys2Proof

/-- A register data byte, `UInt8` (R8). -/
abbrev Byte := BitVec 8

/-- A register offset inside the 32-offset window, five bits (R8, R90). -/
abbrev Offset := BitVec 5

/-- A 16-bit command word (R110). -/
abbrev CmdWord := BitVec 16

/-- The 64-bit operand word of READ and RUN (R113). -/
abbrev OperandWord := BitVec 64

/-- The greatest cycle number, `2^64 - 1` (R7, R343). R7 gives cycle numbers as unsigned 64-bit integers and allows
unbounded naturals in a model that faults on a number above this one; the model's cycle numbers are `Nat`. -/
def maxCycle : Nat := 2 ^ 64 - 1

/-- One output sample, a 16-bit signed integer held as its two's-complement bits (R9). -/
abbrev Sample := BitVec 16

/-- An output level of a channel, 0..15 (R204). -/
abbrev Level := BitVec 4

end Sys2Proof
end

