-- ==== Sys2Proof/Syntax.lean ====
section
/-! DEFINITION. The instructions: one constructor per row of spec/opcode_table.json, in the table's order. An
instruction is one host operation (spec/00_scope.md R5): a register write carries its data byte, the status read and
`run_to` carry their 64-bit cycle operand. -/

namespace Sys2Proof

/-- One host operation with a row in the opcode table. The numbers after `wr` in the comments are register offsets. -/
inductive Instr where
  | wrP1Ctrl (v : Byte)      -- $00 (R220)
  | wrP1Sweep (v : Byte)     -- $01 (R221)
  | wrP1Tlo (v : Byte)       -- $02 (R222)
  | wrP1Thi (v : Byte)       -- $03 (R223)
  | wrP2Ctrl (v : Byte)      -- $04 (R220)
  | wrP2Sweep (v : Byte)     -- $05 (R221)
  | wrP2Tlo (v : Byte)       -- $06 (R222)
  | wrP2Thi (v : Byte)       -- $07 (R223)
  | wrTriLin (v : Byte)      -- $08 (R260)
  | wrTriUnused (v : Byte)   -- $09 (R261)
  | wrTriTlo (v : Byte)      -- $0A (R262)
  | wrTriThi (v : Byte)      -- $0B (R263)
  | wrNoiCtrl (v : Byte)     -- $0C (R280)
  | wrNoiUnused (v : Byte)   -- $0D (R281)
  | wrNoiPer (v : Byte)      -- $0E (R282)
  | wrNoiLen (v : Byte)      -- $0F (R283)
  | wrDmc0 (v : Byte)        -- $10 (R300)
  | wrDmc1 (v : Byte)        -- $11 (R300)
  | wrDmc2 (v : Byte)        -- $12 (R300)
  | wrDmc3 (v : Byte)        -- $13 (R300)
  | wrUnused14 (v : Byte)    -- $14 (R301)
  | wrEnable (v : Byte)      -- $15 (R190)
  | wrUnused16 (v : Byte)    -- $16 (R302)
  | wrFrame (v : Byte)       -- $17 (R157)
  | rdStatus (c : OperandWord)   -- read_status(c) (R165)
  | run (t : OperandWord)        -- run_to(t) (R140)
  | qry                          -- requested_run_cycle() (R163)
  deriving DecidableEq, Repr

/-- Why a command word is illegal: the four cases of R118, the spec's own reserved space. -/
inductive IllegalWord where
  /-- `Z = w[13]` is 1. -/
  | reservedBit
  /-- a READ word whose data field is not 0. -/
  | readData
  /-- a RUN word other than `0x8000`. -/
  | runBits
  /-- a QUERY word other than `0xC000`. -/
  | queryBits
  deriving DecidableEq, Repr

/-- The operation kind `K = w[15:14]` (R111). -/
inductive Kind where
  | write | read | run | query
  deriving DecidableEq, Repr

/-- What the decoder reads at the front of the host's command stream. `rest` is what follows the command. -/
inductive Decoded where
  /-- a row of the opcode table (R114 to R117). -/
  | instr (i : Instr) (rest : List Byte)
  /-- a WRITE outside the register window, `A` in `0x18`–`0x1F` (R114); it executes as the fault of R341. -/
  | writeOutside (a : Offset) (rest : List Byte)
  /-- a READ of an offset other than `$15` (R115); it executes as the fault of R342. -/
  | readOutside (a : Offset) (rest : List Byte)
  /-- an illegal command word (R118), refused. -/
  | illegal (r : IllegalWord)
  /-- the stream ends inside a command (no command of R110). -/
  | truncated
  deriving DecidableEq, Repr

/-- One line of the spec's assembler (R139). `CATCHUP` is `Sys2Proof.Machine.catchUp`: its second word depends on
what `QRY` returns. -/
inductive AsmLine where
  | wr (oo : Offset) (vv : Byte)
  | rd15 (c : OperandWord)
  | run (t : OperandWord)
  | qry
  deriving DecidableEq, Repr

/-- The register aliases of the spec's assembler (R139). -/
inductive RegAlias where
  | p1Ctrl | p1Sweep | p1Tlo | p1Thi
  | p2Ctrl | p2Sweep | p2Tlo | p2Thi
  | triLin | triTlo | triThi
  | noiCtrl | noiPer | noiLen
  | enable | status | frame
  deriving DecidableEq, Repr

end Sys2Proof
end

