-- ==== Sys2Proof/WellFormed.lean ====
section
/-! DEFINITION. Well-formedness. The operands of `Instr` are typed at their full width and every value of them is
legal (spec/30_encoding.md R113, R119), so every term of `Instr` is well formed. What can be ill formed is a command
WORD: the four checks of R118, each by name, stand here apart from the decoder; the decoder has to refuse exactly the
words they refuse. -/

namespace Sys2Proof

/-- Every data byte is legal for every register (R119) and every 64-bit operand is used unchanged (R113): no operand
of any constructor can be ill formed. -/
def Instr.wellFormed : Instr → Bool := fun _ => true

/-- R118: the reserved bit `Z = w[13]` is 0. -/
def reservedClear (w : CmdWord) : Bool := !w.getLsbD 13

/-- R118: a READ word (`K = 01`) has a data field of 0. -/
def readDataZero (w : CmdWord) : Bool := w.extractLsb' 14 2 != 1 || w.extractLsb' 0 8 == 0

/-- R118: a RUN word (`K = 10`) is exactly `0x8000`. -/
def runWordExact (w : CmdWord) : Bool := w.extractLsb' 14 2 != 2 || w == 0x8000

/-- R118: a QUERY word (`K = 11`) is exactly `0xC000`. -/
def queryWordExact (w : CmdWord) : Bool := w.extractLsb' 14 2 != 3 || w == 0xC000

/-- A command word that R118 does not call illegal. -/
def legalWord (w : CmdWord) : Bool := reservedClear w && readDataZero w && runWordExact w && queryWordExact w

end Sys2Proof
end

