-- ==== Sys2Proof/Decode.lean ====
section
/-! DEFINITION. The decoder of the host's command stream and, after it, the encoder (spec/30_encoding.md). A command
is one 16-bit word and, for READ and RUN, one 64-bit operand word (R110, R111). The spec leaves the byte order of a
transport open (R113); the model's stream carries each word's low byte first (log entry 1, DESIGN CHOICE). -/

namespace Sys2Proof

/-! ## Fields of the command word (R110, R112) -/

/-- `K = w[15:14]` (R111). -/
def kindOf (w : CmdWord) : Kind :=
  match (w.extractLsb' 14 2).toNat with
  | 0 => .write
  | 1 => .read
  | 2 => .run
  | _ => .query

/-- `A = w[12:8]`, the register offset (R112). -/
def offsetOf (w : CmdWord) : Offset := w.extractLsb' 8 5

/-- `D = w[7:0]`, the data byte, used unchanged (R112). -/
def dataOf (w : CmdWord) : Byte := w.extractLsb' 0 8

/-- The length of a command in bytes, told from `K` alone: 16 or 80 bits (R111). -/
def commandBytes (w : CmdWord) : Nat :=
  match kindOf w with
  | .write => 2
  | .read => 10
  | .run => 10
  | .query => 2

/-- Why a word is illegal, if it is (R118). -/
def illegalReason (w : CmdWord) : Option IllegalWord :=
  if w.getLsbD 13 then some .reservedBit
  else match kindOf w with
    | .write => none
    | .read => if dataOf w = 0 then none else some .readData
    | .run => if w = 0x8000 then none else some .runBits
    | .query => if w = 0xC000 then none else some .queryBits

/-- The register write of an offset, one row of the opcode table each (R114, R168); none outside the window. -/
def decodeWrite (a : Offset) (v : Byte) : Option Instr :=
  match a.toNat with
  | 0x00 => some (.wrP1Ctrl v)
  | 0x01 => some (.wrP1Sweep v)
  | 0x02 => some (.wrP1Tlo v)
  | 0x03 => some (.wrP1Thi v)
  | 0x04 => some (.wrP2Ctrl v)
  | 0x05 => some (.wrP2Sweep v)
  | 0x06 => some (.wrP2Tlo v)
  | 0x07 => some (.wrP2Thi v)
  | 0x08 => some (.wrTriLin v)
  | 0x09 => some (.wrTriUnused v)
  | 0x0A => some (.wrTriTlo v)
  | 0x0B => some (.wrTriThi v)
  | 0x0C => some (.wrNoiCtrl v)
  | 0x0D => some (.wrNoiUnused v)
  | 0x0E => some (.wrNoiPer v)
  | 0x0F => some (.wrNoiLen v)
  | 0x10 => some (.wrDmc0 v)
  | 0x11 => some (.wrDmc1 v)
  | 0x12 => some (.wrDmc2 v)
  | 0x13 => some (.wrDmc3 v)
  | 0x14 => some (.wrUnused14 v)
  | 0x15 => some (.wrEnable v)
  | 0x16 => some (.wrUnused16 v)
  | 0x17 => some (.wrFrame v)
  | _ => none

/-- The 64-bit operand at the front of a stream, low byte first, and what follows it. -/
def takeOperand : List Byte → Option (OperandWord × List Byte)
  | b0 :: b1 :: b2 :: b3 :: b4 :: b5 :: b6 :: b7 :: rest =>
      some (b7 ++ b6 ++ b5 ++ b4 ++ b3 ++ b2 ++ b1 ++ b0, rest)
  | _ => none

/-- The command whose (legal) word is `w`, with the stream that follows the word. -/
def decodeAfter (w : CmdWord) (rest : List Byte) : Decoded :=
  match kindOf w with
  | .write =>
    match decodeWrite (offsetOf w) (dataOf w) with
    | some i => .instr i rest
    | none => .writeOutside (offsetOf w) rest
  | .read =>
    match takeOperand rest with
    | some (x, rest') => if offsetOf w = 0x15 then .instr (.rdStatus x) rest' else .readOutside (offsetOf w) rest'
    | none => .truncated
  | .run =>
    match takeOperand rest with
    | some (x, rest') => .instr (.run x) rest'
    | none => .truncated
  | .query => .instr .qry rest

/-- The command at the front of a stream. Total on any bytes: an illegal word is refused by name (R118). -/
def decode : List Byte → Decoded
  | lo :: hi :: rest =>
    match illegalReason (hi ++ lo) with
    | some r => .illegal r
    | none => decodeAfter (hi ++ lo) rest
  | _ => .truncated

/-! ## The encoder (R110, R114 to R117) -/

/-- The bytes of a 16-bit command word. -/
def wordBytes (w : CmdWord) : List Byte := [w.extractLsb' 0 8, w.extractLsb' 8 8]

/-- The bytes of a 64-bit operand word. -/
def operandBytes (x : OperandWord) : List Byte :=
  [x.extractLsb' 0 8, x.extractLsb' 8 8, x.extractLsb' 16 8, x.extractLsb' 24 8,
   x.extractLsb' 32 8, x.extractLsb' 40 8, x.extractLsb' 48 8, x.extractLsb' 56 8]

/-- The command word of `write(a, v)`: `oo << 8 | vv` (R139). -/
def writeWord (a : Offset) (v : Byte) : CmdWord := (0 : BitVec 3) ++ a ++ v

/-- The command word of an instruction: the table's `match` with the data byte below it. -/
def Instr.word : Instr → CmdWord
  | .wrP1Ctrl v => writeWord 0x00 v
  | .wrP1Sweep v => writeWord 0x01 v
  | .wrP1Tlo v => writeWord 0x02 v
  | .wrP1Thi v => writeWord 0x03 v
  | .wrP2Ctrl v => writeWord 0x04 v
  | .wrP2Sweep v => writeWord 0x05 v
  | .wrP2Tlo v => writeWord 0x06 v
  | .wrP2Thi v => writeWord 0x07 v
  | .wrTriLin v => writeWord 0x08 v
  | .wrTriUnused v => writeWord 0x09 v
  | .wrTriTlo v => writeWord 0x0A v
  | .wrTriThi v => writeWord 0x0B v
  | .wrNoiCtrl v => writeWord 0x0C v
  | .wrNoiUnused v => writeWord 0x0D v
  | .wrNoiPer v => writeWord 0x0E v
  | .wrNoiLen v => writeWord 0x0F v
  | .wrDmc0 v => writeWord 0x10 v
  | .wrDmc1 v => writeWord 0x11 v
  | .wrDmc2 v => writeWord 0x12 v
  | .wrDmc3 v => writeWord 0x13 v
  | .wrUnused14 v => writeWord 0x14 v
  | .wrEnable v => writeWord 0x15 v
  | .wrUnused16 v => writeWord 0x16 v
  | .wrFrame v => writeWord 0x17 v
  | .rdStatus _ => 0x5500
  | .run _ => 0x8000
  | .qry => 0xC000

/-- The operand word that follows an instruction's command word, if one does (R111). -/
def Instr.operand : Instr → Option OperandWord
  | .rdStatus c => some c
  | .run t => some t
  | _ => none

/-- The bytes of an instruction in the command stream. -/
def encode (i : Instr) : List Byte :=
  wordBytes i.word ++ (match i.operand with | some x => operandBytes x | none => [])

/-! ## Words numbered as the opcode table numbers them -/

/-- The low `k` bytes of a number, low byte first. -/
def lowBytes : Nat → Nat → List Byte
  | 0, _ => []
  | k + 1, w => BitVec.ofNat 8 w :: lowBytes k (w / 256)

/-- The bytes of the one command whose bits are `w`: the low `nbits` bits, zeros above, cut to the length its own
word gives it. -/
def tableBytes (nbits w : Nat) : List Byte :=
  (lowBytes 10 (w % 2 ^ nbits)).take (commandBytes (BitVec.ofNat 16 (w % 2 ^ nbits)))

/-- The instruction the decoder reads from a command whose bits are `w`. -/
def decodeTableWord (nbits w : Nat) : Option Instr :=
  match decode (tableBytes nbits w) with
  | .instr i _ => some i
  | _ => none

/-! ## The host's side: address decode and assembler (R19, R139) -/

/-- `CPU_TO_OFFSET` (R19): which CPU addresses reach the core. The default `$4000`–`$4017` is the spec's, from general
knowledge (log entry 8, PRESUMED); the offset is the "CPU address modulo 0x20". The spec gives a CPU address no width: 16
bits is the model's choice (log entry 8, DESIGN CHOICE). -/
def cpuToOffset (addr : BitVec 16) : Option Offset :=
  if 0x4000 ≤ addr.toNat ∧ addr.toNat ≤ 0x4017 then some (addr.extractLsb' 0 5) else none

/-- The bytes of one assembler line (R139). -/
def AsmLine.bytes : AsmLine → List Byte
  | .wr oo vv => wordBytes (writeWord oo vv)
  | .rd15 c => wordBytes 0x5500 ++ operandBytes c
  | .run t => wordBytes 0x8000 ++ operandBytes t
  | .qry => wordBytes 0xC000

/-- The offset an assembler alias stands for (R139). -/
def RegAlias.offset : RegAlias → Offset
  | .p1Ctrl => 0x00
  | .p1Sweep => 0x01
  | .p1Tlo => 0x02
  | .p1Thi => 0x03
  | .p2Ctrl => 0x04
  | .p2Sweep => 0x05
  | .p2Tlo => 0x06
  | .p2Thi => 0x07
  | .triLin => 0x08
  | .triTlo => 0x0A
  | .triThi => 0x0B
  | .noiCtrl => 0x0C
  | .noiPer => 0x0E
  | .noiLen => 0x0F
  | .enable => 0x15
  | .status => 0x15
  | .frame => 0x17

end Sys2Proof
end

