-- ==== Sys2Proof/Config.lean ====
section
/-! DEFINITION. The `OPEN` parameters of spec/00_scope.md section 2, as constants with no body: nothing in Lean can
prove a value of them, so a theorem about the model holds whatever they are. The rules' lower bounds ("at least 1")
are built in where the constants are used (Machine/Tables.lean; log entry 10). The parameters for which the spec names a default
stand there too. -/

namespace Sys2Proof

/-- The frame mode flag `MODE` (R32): 0 is the 4-step sequence, 1 the 5-step sequence. -/
inductive FrameMode where
  | fourStep | fiveStep
  deriving DecidableEq, Repr

/-- The record the mixer receives for one cycle: four output levels (R311). -/
structure OutTuple where
  p1  : Level
  p2  : Level
  tri : Level
  noi : Level
  deriving DecidableEq, Repr

/-- The resampler's carry between blocks. The spec leaves its type opaque (R17); a natural number stands for it, as
any finite carry can be numbered (log entry 3, DESIGN CHOICE). -/
abbrev Carry := Nat

namespace Config

/-- `SAMPLE_RATE` (R16), samples per second. -/
opaque sampleRate : Nat

/-- `BLOCK_LEN` (R16), the number of samples of one block. -/
opaque blockLen : Nat

/-- `carry0` (R17), the resampler's initial carry. -/
opaque carry0 : Carry

/-- `CLOCKS_NEEDED` (R17) less 1, by sample rate and carry. -/
opaque clocksNeededLessOne : Nat → Carry → Nat

/-- The samples of `RESAMPLE` (R17), by sample rate, carry, trace and the sample's place in the block. -/
opaque resampleSample : Nat → Carry → List OutTuple → Nat → Sample

/-- The new carry of `RESAMPLE` (R17), by sample rate, carry and trace. -/
opaque resampleCarry : Nat → Carry → List OutTuple → Carry

/-- `TICK_TABLE` (R11) less 1, by mode and slot. Slots 0..5 are the spec's; the entry of the 4-step mode's slot 0 is
fixed by the spec and is not read from here. -/
opaque tickTableLessOne : FrameMode → Nat → Nat

end Config

end Sys2Proof
end

