-- ==== Sys2Proof/Machine/Tables.lean ====
section
/-! DEFINITION. The parameter tables of spec/00_scope.md section 2. Where the spec names a default (R12 to R15, R18)
the default stands here; the `OPEN` ones come from Config. -/

namespace Sys2Proof.Machine

/-- `TICK_TABLE[m][k]` (R11): the source fixes `[0][0] = 7459`; every other entry is open and at least 1. -/
def tickDelta (m : FrameMode) (k : Nat) : Nat :=
  if m = .fourStep ∧ k = 0 then 7459 else Config.tickTableLessOne m k + 1

/-- `CLOCKS_NEEDED` (R17): at least 1. -/
def clocksNeeded (c : Carry) : Nat := Config.clocksNeededLessOne Config.sampleRate c + 1

/-- The block of `RESAMPLE` (R17): `BLOCK_LEN` samples. -/
def resampleBlock (c : Carry) (trace : List OutTuple) : List Sample :=
  (List.range Config.blockLen).map (Config.resampleSample Config.sampleRate c trace)

/-- The new carry of `RESAMPLE` (R17). -/
def resampleCarry (c : Carry) (trace : List OutTuple) : Carry := Config.resampleCarry Config.sampleRate c trace

/-- `LENGTH_TABLE` (R12), the spec's default from general knowledge (log entry 5). -/
def lengthTable : List (BitVec 8) :=
  [10, 254, 20, 2, 40, 4, 80, 6, 160, 8, 60, 10, 14, 12, 26, 14,
   12, 16, 24, 18, 48, 20, 96, 22, 192, 24, 72, 26, 16, 28, 32, 30]

/-- `LENGTH_TABLE[i]`. -/
def lengthEntry (i : BitVec 5) : BitVec 8 := lengthTable.getD i.toNat 0

/-- `DUTY_TABLE` (R13), step 0 first, the spec's default from general knowledge (log entry 5). -/
def dutyTable : List (List Bool) :=
  [[false, true, false, false, false, false, false, false],
   [false, true, true, false, false, false, false, false],
   [false, true, true, true, true, false, false, false],
   [true, false, false, true, true, true, true, true]]

/-- `DUTY_TABLE[d][k]` (R225). -/
def dutyBit (d : BitVec 2) (k : BitVec 3) : Bool := (dutyTable.getD d.toNat []).getD k.toNat false

/-- `TRI_SEQ` (R14), step 0 first, the spec's default from general knowledge (log entry 5). -/
def triangleSequence : List Level :=
  [15, 14, 13, 12, 11, 10, 9, 8, 7, 6, 5, 4, 3, 2, 1, 0,
   0, 1, 2, 3, 4, 5, 6, 7, 8, 9, 10, 11, 12, 13, 14, 15]

/-- `TRI_SEQ[k]` (R266). -/
def triangleLevel (k : BitVec 5) : Level := triangleSequence.getD k.toNat 0

/-- `NOISE_PERIOD` (R15), NTSC, the spec's default from general knowledge (log entry 5). -/
def noisePeriodTable : List Nat :=
  [4, 8, 16, 32, 64, 96, 128, 160, 202, 254, 380, 508, 762, 1016, 2034, 4068]

/-- `NOISE_PERIOD[i]`; the value for an index past the table is never used, as the table has all 16 entries. -/
def noisePeriod (i : BitVec 4) : Nat := noisePeriodTable.getD i.toNat 1

/-- `LOAD_WHEN_DISABLED` (R18), the spec's default (log entry 6). -/
def loadWhenDisabled : Bool := false

end Sys2Proof.Machine
end

