-- ==== Sys2Proof/Machine/State.lean ====
section
/-! DEFINITION. The state of the block (spec/10_state.md), the reasons a step can stop, and the state at power-on
(spec/70_reset_and_hazards.md R370). Beside the block's own record `s` (R30) it holds what the host sends (`queue`)
and what the host observes of a run (`results`, `sink`; R384). -/

namespace Sys2Proof.Machine

/-- The faults of the block (R340 to R343): the kinds of its fault mark `s.fault` (R40). A meaning RAISES one by taking
the next state R340 describes (mark set, earlier writes kept); no step of this model answers `Outcome.fault`. -/
inductive Fault where
  /-- R341. Raised by a WRITE command with an offset `≥ 0x18` (Machine/Fetch.lean). Safe: the spec's own fault. -/
  | addressOutOfWindow
  /-- R342. Raised by a READ command with an offset other than `$15` (Machine/Fetch.lean). Safe: the spec's own fault. -/
  | readNotServed
  /-- R343. Raised by a tick, a transfer, an applied `$17` write or an odd-cycle `$17` write whose cycle sum is above
  `2^64 - 1` (Machine/FrameSequencer.lean, Machine/Mixer.lean). Safe: the spec's own fault. -/
  | cycleOverflow
  deriving DecidableEq, Repr

/-- Why a step is refused. A refusal is the model's refusal mark (R344): the run ends there. -/
inductive Refusal where
  /-- An instruction whose arm has no meaning yet: raised by exec's arm alone. Safe: the model stops. -/
  | notModelled (mnemonic : String)
  /-- R118, R344. Raised by the fetch of an illegal command word. Safe: the spec refuses it. -/
  | illegalCommand (r : IllegalWord)
  /-- Raised by the fetch when the command stream ends inside a command, which no command of R110 does. Safe: the
  model stops where no operation has been issued. -/
  | truncatedCommand
  deriving DecidableEq, Repr

/-- The interrupt request of the frame sequencer; it has one constructor (R24). -/
inductive Interrupt where
  | frame
  deriving DecidableEq, Repr

/-- What one host operation returns (R24). -/
inductive OpResult where
  /-- `write`: nothing; also an operation ended by a fault (R340). -/
  | nothing
  /-- `run_to`. -/
  | interrupt (irq : Option Interrupt)
  /-- `read_status`. -/
  | status (irq : Option Interrupt) (byte : Byte)
  /-- `requested_run_cycle`. -/
  | cycle (n : Nat)
  deriving DecidableEq, Repr

/-- One call of the sink, `Block(e, block)` (R316). -/
structure SinkCall where
  cycle : Nat
  block : List Sample
  deriving DecidableEq, Repr

/-- The enable flag and length counter a channel has (R43, R44, R62, R71). -/
structure LengthUnit where
  enabled : Bool
  count   : BitVec 8
  deriving DecidableEq, Repr

/-- The envelope of a pulse or noise channel (R46 to R49, R72, R73, R199). `halt` is the length counter's halt flag
and the envelope's loop flag in one (R46). -/
structure Envelope where
  halt     : Bool
  constVol : Bool
  vol      : BitVec 4
  start    : Bool
  divider  : BitVec 4
  decay    : BitVec 4
  deriving DecidableEq, Repr

/-- A pulse channel (R43 to R55). -/
structure Pulse where
  len          : LengthUnit
  env          : Envelope
  duty         : BitVec 2
  sweepEn      : Bool
  sweepPeriod  : BitVec 3
  negate       : Bool
  shift        : BitVec 3
  sweepReload  : Bool
  sweepDivider : BitVec 3
  period       : BitVec 11
  timerCtr     : Nat        -- 0 ≤ timerCtr ≤ 4095 (R53)
  dutyPos      : BitVec 3
  isSecond     : Bool       -- a constant (R55)
  deriving DecidableEq, Repr

/-- The triangle channel (R62 to R68). -/
structure Triangle where
  len          : LengthUnit
  control      : Bool
  reloadVal    : BitVec 7
  linear       : BitVec 7
  linearReload : Bool
  period       : BitVec 11
  timerCtr     : Nat        -- 0 ≤ timerCtr ≤ 2047 (R67)
  seqPos       : BitVec 5
  deriving DecidableEq, Repr

/-- The shift register's tap mode (R74): 0 long, 1 short. -/
inductive TapMode where
  | long | short
  deriving DecidableEq, Repr

/-- The noise channel (R71 to R77). -/
structure Noise where
  len       : LengthUnit
  env       : Envelope
  mode      : TapMode
  periodIdx : BitVec 4
  timerCtr  : Nat           -- 0 ≤ timerCtr ≤ 4067 (R76)
  lfsr      : BitVec 15
  deriving DecidableEq, Repr

/-- The whole state. The block's record (R30) first, in the order of spec/10_state.md; then the model's own fields:
the fault's info, the observation of the run, and the host's commands not yet issued (log entries 2 and 4). -/
structure State where
  globalCyc       : Nat                    -- R31
  mode            : FrameMode                -- R32
  suppress        : Bool                     -- R33
  tick            : Nat                      -- R34
  nextTickCyc     : Nat                    -- R35
  nextTransferCyc : Nat                    -- R36
  lastFrameCyc    : Nat                    -- R37
  pending         : Option (Nat × Byte)    -- R38
  irqFlag         : Bool                     -- R39
  fault           : Option Fault             -- R40
  p1              : Pulse                    -- R43 to R55
  p2              : Pulse
  tri             : Triangle                 -- R62 to R68
  noi             : Noise                    -- R71 to R77
  carry           : Carry                    -- R83
  trace           : List OutTuple            -- R84
  faultInfo       : Option Nat               -- the info of the fault raised (R340), for the host to see
  results         : List OpResult            -- the operation results, oldest first (R384)
  sink            : List SinkCall            -- the sink calls, oldest first (R316, R384)
  queue           : List Byte                -- the host's commands not yet issued (R5, R110)
  deriving DecidableEq, Repr

/-- A length unit at power-on (R370). -/
def LengthUnit.reset : LengthUnit := { enabled := false, count := 0 }

/-- An envelope at power-on (R370). -/
def Envelope.reset : Envelope :=
  { halt := false, constVol := false, vol := 0, start := false, divider := 0, decay := 0 }

/-- A pulse channel at power-on (R370); `second` is the constant of R55. -/
def Pulse.reset (second : Bool) : Pulse :=
  { len := .reset, env := .reset, duty := 0, sweepEn := false, sweepPeriod := 0, negate := false, shift := 0,
    sweepReload := false, sweepDivider := 0, period := 0, timerCtr := 0, dutyPos := 0, isSecond := second }

/-- The triangle at power-on (R370). -/
def Triangle.reset : Triangle :=
  { len := .reset, control := false, reloadVal := 0, linear := 0, linearReload := false, period := 0, timerCtr := 0,
    seqPos := 0 }

/-- The noise channel at power-on (R370). -/
def Noise.reset : Noise :=
  { len := .reset, env := .reset, mode := .long, periodIdx := 0, timerCtr := 0, lfsr := 1 }

/-- The power-on state (R370, R371, R319), with no host command placed. -/
def State.reset : State :=
  { globalCyc := 0, mode := .fourStep, suppress := false, tick := 0, nextTickCyc := tickDelta .fourStep 0,
    nextTransferCyc := clocksNeeded Config.carry0, lastFrameCyc := 0, pending := none, irqFlag := false, fault := none,
    p1 := .reset false, p2 := .reset true, tri := .reset, noi := .reset, carry := Config.carry0, trace := [],
    faultInfo := none, results := [], sink := [], queue := [] }

end Sys2Proof.Machine
end

