-- ==== Sys2Proof/Machine/Flags.lean ====
section
/-! DEFINITION. The sticky interrupt flag and the status byte (spec/40_frame_sequencer.md R153, R158, R165, R167). -/

namespace Sys2Proof.Machine

/-- `a OR b` on two interrupt results (R24). -/
def orIrq : Option Interrupt → Option Interrupt → Option Interrupt
  | some i, _ => some i
  | none, b => b

/-- The interrupt raise of mode-0 step 4 (R153): with `SUPPRESS_IRQ` clear, set the sticky flag and raise. -/
def raiseFrameIrq (s : State) : State × Option Interrupt :=
  if s.suppress then (s, none) else ({ s with irqFlag := true }, some .frame)

/-- Clear the sticky flag (R158, R165). -/
def clearIrq (s : State) : State := { s with irqFlag := false }

/-- A `$17` write with bit 6 set clears the sticky flag; one with bit 6 clear leaves it (R158). -/
def clearIrqIf (b : Bool) (s : State) : State := if b then clearIrq s else s

/-- `active(ch)`: the length counter is not 0 (R197). -/
def LengthUnit.active (l : LengthUnit) : Bool := l.count != 0

/-- The status byte, bit 7 first `0 I 0 0 N T 2 1` (R136, R167). -/
def statusByte (s : State) : Byte :=
  BitVec.ofBool false ++ BitVec.ofBool s.irqFlag ++ (0 : BitVec 2) ++ BitVec.ofBool s.noi.len.active ++
    BitVec.ofBool s.tri.len.active ++ BitVec.ofBool s.p2.len.active ++ BitVec.ofBool s.p1.len.active

end Sys2Proof.Machine
end

