-- ==== Sys2Proof/Machine/Operands.lean ====
section
/-! DEFINITION. The register data layouts of spec/30_encoding.md section 3: which bits of a written byte are which
field. Bits no layout names are ignored on write (R119). -/

namespace Sys2Proof.Machine

/-- `$00`, `$04`: `D[7:6]` duty index (R121). -/
def ctrlDuty (v : Byte) : BitVec 2 := v.extractLsb' 6 2

/-- `$00`, `$04`, `$0C`: `D[5]` length halt / envelope loop (R121, R129). -/
def ctrlHalt (v : Byte) : Bool := v.getLsbD 5

/-- `$00`, `$04`, `$0C`: `D[4]` constant volume (R121, R129). -/
def ctrlConstVol (v : Byte) : Bool := v.getLsbD 4

/-- `$00`, `$04`, `$0C`: `D[3:0]` volume / envelope period (R121, R129). -/
def ctrlVol (v : Byte) : BitVec 4 := v.extractLsb' 0 4

/-- `$01`, `$05`: `D[7]` sweep enable (R122). -/
def sweepEnable (v : Byte) : Bool := v.getLsbD 7

/-- `$01`, `$05`: `D[6:4]` sweep divider period (R122). -/
def sweepDividerPeriod (v : Byte) : BitVec 3 := v.extractLsb' 4 3

/-- `$01`, `$05`: `D[3]` negate (R122). -/
def sweepNegate (v : Byte) : Bool := v.getLsbD 3

/-- `$01`, `$05`: `D[2:0]` shift count (R122). -/
def sweepShift (v : Byte) : BitVec 3 := v.extractLsb' 0 3

/-- `$02`, `$06`, `$0A`: the period with bits 7:0 replaced, `{period[10:8], v}` (R123, R127, R138). -/
def withTimerLow (period : BitVec 11) (v : Byte) : BitVec 11 := period.extractLsb' 8 3 ++ v

/-- `$03`, `$07`, `$0B`: the period with bits 10:8 replaced, `{v[2:0], period[7:0]}` (R124, R128, R138). -/
def withTimerHigh (period : BitVec 11) (v : Byte) : BitVec 11 := v.extractLsb' 0 3 ++ period.extractLsb' 0 8

/-- `$03`, `$07`, `$0B`, `$0F`: `D[7:3]` length table index (R124, R128, R132). -/
def lengthIndex (v : Byte) : BitVec 5 := v.extractLsb' 3 5

/-- `$08`: `D[7]` control flag (R125). -/
def linearControl (v : Byte) : Bool := v.getLsbD 7

/-- `$08`: `D[6:0]` linear counter reload value (R125). -/
def linearReloadValue (v : Byte) : BitVec 7 := v.extractLsb' 0 7

/-- `$0E`: `D[7]` tap mode, 1 short (R131). -/
def noiseTapMode (v : Byte) : TapMode := if v.getLsbD 7 then .short else .long

/-- `$0E`: `D[3:0]` period index (R131). -/
def noisePeriodIndex (v : Byte) : BitVec 4 := v.extractLsb' 0 4

/-- `$15` write: `D[0]` pulse 1 enable (R135). -/
def enableP1 (v : Byte) : Bool := v.getLsbD 0

/-- `$15` write: `D[1]` pulse 2 enable (R135). -/
def enableP2 (v : Byte) : Bool := v.getLsbD 1

/-- `$15` write: `D[2]` triangle enable (R135). -/
def enableTri (v : Byte) : Bool := v.getLsbD 2

/-- `$15` write: `D[3]` noise enable (R135). -/
def enableNoi (v : Byte) : Bool := v.getLsbD 3

/-- `$17`: `D[7]` mode, 1 = 5-step (R137). -/
def frameMode (v : Byte) : FrameMode := if v.getLsbD 7 then .fiveStep else .fourStep

/-- `$17`: `D[6]` suppress IRQ (R137). -/
def frameSuppress (v : Byte) : Bool := v.getLsbD 6

end Sys2Proof.Machine
end

