-- ==== Sys2Proof/Machine/Ops.lean ====
section
/-! DEFINITION. The operations every family shares: raising a fault (spec/60_exceptions.md R340), scheduling a cycle
(R343), running one host operation, and the length counter and envelope units of the channels
(spec/41_channel_common.md). An operation answers `.ok` with its new state, or `.error` with the state a raised fault
leaves; a raise is the block's one way of taking an exception, and nothing returns from it (R340, R353). -/

namespace Sys2Proof.Machine

/-! ## Faults and host operations -/

/-- `raise Fault(kind, info)`: set the fault mark; writes made before stand (R340). A fault is a next
state (log entry 11, DEDUCED). -/
def raiseFault (kind : Fault) (info : Nat) (s : State) : State :=
  { s with fault := some kind, faultInfo := some info }

/-- The cycle `n + d` of a reschedule, none when it is above `2^64 - 1` (R343). -/
def schedule (n d : Nat) : Option Nat := if n + d ≤ maxCycle then some (n + d) else none

/-- Append what an operation returned to the run's observation (R384). -/
def logResult (r : OpResult) (s : State) : State := { s with results := s.results ++ [r] }

/-- One host operation. On a faulted state it changes nothing and returns `idle` (R340); a fault ends it where it is
raised and it returns nothing (R340; log entry 12). -/
def perform (idle : OpResult) (op : State → Except State (State × OpResult)) (s : State) :
    Host.Outcome State Fault Refusal :=
  if s.fault.isSome then .next (logResult idle s)
  else match op s with
    | .ok (s', r) => .next (logResult r s')
    | .error s' => .next (logResult .nothing s')

/-- A register write that only stores into the state: it returns nothing and raises nothing (R169). -/
def performWrite (f : State → State) (s : State) : Host.Outcome State Fault Refusal :=
  perform .nothing (fun s => .ok (f s, .nothing)) s

/-- A write that may raise a fault. -/
def performWriteE (f : State → Except State State) (s : State) : Host.Outcome State Fault Refusal :=
  perform .nothing (fun s => (f s).map (fun s' => (s', .nothing))) s

/-! ## Length counter (R190 to R198) -/

/-- `SetEnable(ch, b)` (R190, R191): clearing the flag zeroes the counter; setting it loads nothing (R192). -/
def LengthUnit.setEnable (b : Bool) (l : LengthUnit) : LengthUnit :=
  { enabled := b, count := if b then l.count else 0 }

/-- `LengthLoad(ch, v)` (R194). -/
def LengthUnit.load (v : Byte) (l : LengthUnit) : LengthUnit :=
  if l.enabled || loadWhenDisabled then { l with count := lengthEntry (lengthIndex v) } else l

/-- `length_tick()` (R195): count down unless 0 or halted. -/
def LengthUnit.clock (halt : Bool) (l : LengthUnit) : LengthUnit :=
  if l.count ≠ 0 ∧ halt = false then { l with count := l.count - 1 } else l

/-! ## Envelope (R199 to R202) -/

/-- The fields a control register writes (R220, R280). -/
def Envelope.writeCtrl (v : Byte) (e : Envelope) : Envelope :=
  { e with halt := ctrlHalt v, constVol := ctrlConstVol v, vol := ctrlVol v }

/-- The restart a top-register write asks for (R202). -/
def Envelope.restart (e : Envelope) : Envelope := { e with start := true }

/-- `envelope_tick()` (R200). -/
def Envelope.clock (e : Envelope) : Envelope :=
  if e.start then { e with start := false, decay := 15, divider := e.vol }
  else if e.divider = 0 then
    { e with
      divider := e.vol
      decay := if e.decay ≠ 0 then e.decay - 1 else if e.halt then 15 else e.decay }
  else { e with divider := e.divider - 1 }

/-- `EnvOut(ch)` (R201). -/
def Envelope.level (e : Envelope) : Level := if e.constVol then e.vol else e.decay

end Sys2Proof.Machine
end

