-- ==== Sys2Proof/Machine/Enable.lean ====
section
/-! DEFINITION. The channel enable register `$15` (spec/41_channel_common.md R190 to R193). -/

namespace Sys2Proof.Machine

/-- `EnableWrite(v)` (R190): `SetEnable` on the four channels; bits 7:4 are ignored (R193). -/
def enableWrite (v : Byte) (s : State) : State :=
  { s with
    p1 := { s.p1 with len := s.p1.len.setEnable (enableP1 v) }
    p2 := { s.p2 with len := s.p2.len.setEnable (enableP2 v) }
    tri := { s.tri with len := s.tri.len.setEnable (enableTri v) }
    noi := { s.noi with len := s.noi.len.setEnable (enableNoi v) } }

/-- WR_ENABLE (R190). -/
def execWrEnable (v : Byte) (s : State) : Host.Outcome State Fault Refusal := performWrite (enableWrite v) s

end Sys2Proof.Machine
end

