-- ==== Sys2Proof/Machine/Noise.lean ====
section
/-! DEFINITION. The noise channel (spec/44_noise.md): register writes, timer and shift register, output level, and the
meanings of its four register writes. -/

namespace Sys2Proof.Machine

/-- `$0C` (R280); bits 7:6 are ignored. -/
def Noise.writeCtrl (v : Byte) (n : Noise) : Noise := { n with env := n.env.writeCtrl v }

/-- `$0E` (R282); bits 6:4 are ignored. -/
def Noise.writePeriod (v : Byte) (n : Noise) : Noise :=
  { n with mode := noiseTapMode v, periodIdx := noisePeriodIndex v }

/-- `$0F`, the top register (R283); bits 2:0 are ignored. -/
def Noise.writeLength (v : Byte) (n : Noise) : Noise := { n with len := n.len.load v, env := n.env.restart }

/-- `LfsrShift()` (R285): shift right, the feedback entering at bit 14. -/
def shiftLfsr (m : TapMode) (r : BitVec 15) : BitVec 15 :=
  let tap := match m with
    | .short => r.getLsbD 6
    | .long => r.getLsbD 1
  BitVec.ofBool (r.getLsbD 0 ^^ tap) ++ r.extractLsb' 1 14

/-- `StepNoise()`, one CPU cycle of the timer (R284). -/
def Noise.stepTimer (n : Noise) : Noise :=
  if n.timerCtr = 0 then { n with timerCtr := noisePeriod n.periodIdx - 1, lfsr := shiftLfsr n.mode n.lfsr }
  else { n with timerCtr := n.timerCtr - 1 }

/-- `envelope_tick()` of the noise channel (R200). -/
def Noise.envelopeClock (n : Noise) : Noise := { n with env := n.env.clock }

/-- `length_tick()` of the noise channel, halted by `halt` (R195, R196). -/
def Noise.lengthClock (n : Noise) : Noise := { n with len := n.len.clock n.env.halt }

/-- `NoiseOut()` (R286). -/
def Noise.level (n : Noise) : Level :=
  if n.len.count = 0 ∨ n.lfsr.getLsbD 0 = true then 0 else n.env.level

/-! ## Meanings -/

/-- WR_NOI_CTRL (R280). -/
def execWrNoiCtrl (v : Byte) (s : State) : Host.Outcome State Fault Refusal :=
  performWrite (fun s => { s with noi := s.noi.writeCtrl v }) s

/-- WR_NOI_UNUSED (R281): no state is written. -/
def execWrNoiUnused (_v : Byte) (s : State) : Host.Outcome State Fault Refusal := performWrite (fun s => s) s

/-- WR_NOI_PER (R282). -/
def execWrNoiPer (v : Byte) (s : State) : Host.Outcome State Fault Refusal :=
  performWrite (fun s => { s with noi := s.noi.writePeriod v }) s

/-- WR_NOI_LEN (R283). -/
def execWrNoiLen (v : Byte) (s : State) : Host.Outcome State Fault Refusal :=
  performWrite (fun s => { s with noi := s.noi.writeLength v }) s

end Sys2Proof.Machine
end

