-- ==== Sys2Proof/Machine/Pulse.lean ====
section
/-! DEFINITION. The pulse channels (spec/42_pulse.md): register writes, timer and duty sequencer, sweep unit, output
level, and the meanings of the eight pulse register writes. -/

namespace Sys2Proof.Machine

/-! ## Register writes (R220 to R223) -/

/-- `$00` / `$04` (R220). -/
def Pulse.writeCtrl (v : Byte) (p : Pulse) : Pulse := { p with duty := ctrlDuty v, env := p.env.writeCtrl v }

/-- `$01` / `$05` (R221). -/
def Pulse.writeSweep (v : Byte) (p : Pulse) : Pulse :=
  { p with
    sweepEn := sweepEnable v
    sweepPeriod := sweepDividerPeriod v
    negate := sweepNegate v
    shift := sweepShift v
    sweepReload := true }

/-- `$02` / `$06` (R222). -/
def Pulse.writeTimerLow (v : Byte) (p : Pulse) : Pulse := { p with period := withTimerLow p.period v }

/-- `$03` / `$07`, the top register (R223). -/
def Pulse.writeTimerHigh (v : Byte) (p : Pulse) : Pulse :=
  { p with period := withTimerHigh p.period v, len := p.len.load v, dutyPos := 0, env := p.env.restart }

/-! ## Timer and duty sequencer (R224) -/

/-- `StepPulse(p)`, one CPU cycle of the timer (R224). -/
def Pulse.stepTimer (p : Pulse) : Pulse :=
  if p.timerCtr = 0 then { p with timerCtr := 2 * (p.period.toNat + 1) - 1, dutyPos := p.dutyPos + 1 }
  else { p with timerCtr := p.timerCtr - 1 }

/-! ## Sweep unit (R226 to R228) -/

/-- `SweepTarget(p)`, an unbounded signed integer (R226): pulse 1 negates by one's complement, pulse 2 by two's. -/
def Pulse.sweepTarget (p : Pulse) : Int :=
  let c : Int := (p.period >>> p.shift.toNat).toNat
  if p.negate = false then p.period.toNat + c
  else if p.isSecond = false then p.period.toNat - c - 1
  else p.period.toNat - c

/-- `Muted(p)` (R227). -/
def Pulse.muted (p : Pulse) : Bool := p.period.toNat < 8 || p.sweepTarget > 0x7FF

/-- The first half of `SweepTick(p)`: write the period when the divider is out (R228). -/
def Pulse.sweepPeriodUpdate (p : Pulse) : Pulse :=
  if p.sweepDivider = 0 ∧ p.sweepEn = true ∧ p.shift ≠ 0 ∧ p.muted = false then
    { p with period := BitVec.ofInt 11 p.sweepTarget }
  else p

/-- The second half of `SweepTick(p)`: the divider and its reload flag (R228). -/
def Pulse.sweepDividerUpdate (p : Pulse) : Pulse :=
  if p.sweepDivider = 0 ∨ p.sweepReload = true then
    { p with sweepDivider := p.sweepPeriod, sweepReload := false }
  else { p with sweepDivider := p.sweepDivider - 1 }

/-- `SweepTick(p)` (R228). -/
def Pulse.sweepClock (p : Pulse) : Pulse := p.sweepPeriodUpdate.sweepDividerUpdate

/-! ## Clocks and output -/

/-- `envelope_tick()` of a pulse channel (R200). -/
def Pulse.envelopeClock (p : Pulse) : Pulse := { p with env := p.env.clock }

/-- `length_tick()` of a pulse channel, halted by `halt` (R195, R196), then its sweep (R156). -/
def Pulse.lengthClock (p : Pulse) : Pulse := Pulse.sweepClock { p with len := p.len.clock p.env.halt }

/-- `PulseOut(p)` (R229). -/
def Pulse.level (p : Pulse) : Level :=
  if p.len.count = 0 ∨ p.muted = true ∨ dutyBit p.duty p.dutyPos = false then 0 else p.env.level

/-! ## Meanings -/

/-- WR_P1_CTRL (R220). -/
def execWrP1Ctrl (v : Byte) (s : State) : Host.Outcome State Fault Refusal :=
  performWrite (fun s => { s with p1 := s.p1.writeCtrl v }) s

/-- WR_P1_SWEEP (R221). -/
def execWrP1Sweep (v : Byte) (s : State) : Host.Outcome State Fault Refusal :=
  performWrite (fun s => { s with p1 := s.p1.writeSweep v }) s

/-- WR_P1_TLO (R222). -/
def execWrP1Tlo (v : Byte) (s : State) : Host.Outcome State Fault Refusal :=
  performWrite (fun s => { s with p1 := s.p1.writeTimerLow v }) s

/-- WR_P1_THI (R223). -/
def execWrP1Thi (v : Byte) (s : State) : Host.Outcome State Fault Refusal :=
  performWrite (fun s => { s with p1 := s.p1.writeTimerHigh v }) s

/-- WR_P2_CTRL (R220). -/
def execWrP2Ctrl (v : Byte) (s : State) : Host.Outcome State Fault Refusal :=
  performWrite (fun s => { s with p2 := s.p2.writeCtrl v }) s

/-- WR_P2_SWEEP (R221). -/
def execWrP2Sweep (v : Byte) (s : State) : Host.Outcome State Fault Refusal :=
  performWrite (fun s => { s with p2 := s.p2.writeSweep v }) s

/-- WR_P2_TLO (R222). -/
def execWrP2Tlo (v : Byte) (s : State) : Host.Outcome State Fault Refusal :=
  performWrite (fun s => { s with p2 := s.p2.writeTimerLow v }) s

/-- WR_P2_THI (R223). -/
def execWrP2Thi (v : Byte) (s : State) : Host.Outcome State Fault Refusal :=
  performWrite (fun s => { s with p2 := s.p2.writeTimerHigh v }) s

end Sys2Proof.Machine
end

