-- ==== Sys2Proof/Machine/Triangle.lean ====
section
/-! DEFINITION. The triangle channel (spec/43_triangle.md): register writes, linear counter, timer and sequencer,
output level, and the meanings of its four register writes. -/

namespace Sys2Proof.Machine

/-- `$08` (R260). -/
def Triangle.writeLinear (v : Byte) (t : Triangle) : Triangle :=
  { t with control := linearControl v, reloadVal := linearReloadValue v }

/-- `$0A` (R262). -/
def Triangle.writeTimerLow (v : Byte) (t : Triangle) : Triangle := { t with period := withTimerLow t.period v }

/-- `$0B`, the top register (R263). -/
def Triangle.writeTimerHigh (v : Byte) (t : Triangle) : Triangle :=
  { t with period := withTimerHigh t.period v, len := t.len.load v, linearReload := true, seqPos := 0 }

/-- `LinearTick()`, the triangle's `envelope_tick()` (R264). -/
def Triangle.envelopeClock (t : Triangle) : Triangle :=
  { t with
    linear := if t.linearReload then t.reloadVal else if t.linear ≠ 0 then t.linear - 1 else t.linear
    linearReload := if t.control = false then false else t.linearReload }

/-- `length_tick()` of the triangle, halted by `control` (R195, R196). -/
def Triangle.lengthClock (t : Triangle) : Triangle := { t with len := t.len.clock t.control }

/-- `StepTriangle()`, one CPU cycle of the timer (R265). -/
def Triangle.stepTimer (t : Triangle) : Triangle :=
  if t.timerCtr = 0 then
    { t with
      timerCtr := t.period.toNat
      seqPos := if t.len.count ≠ 0 ∧ t.linear ≠ 0 then t.seqPos + 1 else t.seqPos }
  else { t with timerCtr := t.timerCtr - 1 }

/-- `TriOut()` (R266). -/
def Triangle.level (t : Triangle) : Level := triangleLevel t.seqPos

/-! ## Meanings -/

/-- WR_TRI_LIN (R260). -/
def execWrTriLin (v : Byte) (s : State) : Host.Outcome State Fault Refusal :=
  performWrite (fun s => { s with tri := s.tri.writeLinear v }) s

/-- WR_TRI_UNUSED (R261): no state is written. -/
def execWrTriUnused (_v : Byte) (s : State) : Host.Outcome State Fault Refusal := performWrite (fun s => s) s

/-- WR_TRI_TLO (R262). -/
def execWrTriTlo (v : Byte) (s : State) : Host.Outcome State Fault Refusal :=
  performWrite (fun s => { s with tri := s.tri.writeTimerLow v }) s

/-- WR_TRI_THI (R263). -/
def execWrTriThi (v : Byte) (s : State) : Host.Outcome State Fault Refusal :=
  performWrite (fun s => { s with tri := s.tri.writeTimerHigh v }) s

end Sys2Proof.Machine
end

