-- ==== Sys2Proof/Machine/Mixer.lean ====
section
/-! DEFINITION. The mixer (spec/46_mixer.md): the per-cycle trace, `Play` and the transfer to the sink. -/

namespace Sys2Proof.Machine

/-- The levels the mixer receives for the current cycle (R311). -/
def outTuple (s : State) : OutTuple :=
  { p1 := s.p1.level, p2 := s.p2.level, tri := s.tri.level, noi := s.noi.level }

/-- One cycle of `Play`: record the levels, then step the four timers (R312). -/
def playCycle (s : State) : State :=
  { s with
    trace := s.trace ++ [outTuple s]
    p1 := s.p1.stepTimer
    p2 := s.p2.stepTimer
    tri := s.tri.stepTimer
    noi := s.noi.stepTimer }

/-- `k` cycles of `Play`. -/
def playCycles : Nat → State → State
  | 0, s => s
  | k + 1, s => playCycles k (playCycle s)

/-- `Play(a, b)` over the half-open window `[a, b)` (R312). -/
def play (a b : Nat) (s : State) : State := playCycles (b - a) s

/-- The part of `Transfer(e)` before the reschedule: resample, hand the block to the sink, start a new trace (R314). -/
def flushBlock (e : Nat) (s : State) : State :=
  { s with
    sink := s.sink ++ [{ cycle := e, block := resampleBlock s.carry s.trace }]
    trace := []
    carry := resampleCarry s.carry s.trace
    lastFrameCyc := e }

/-- `Transfer(e)` (R314, R315); the reschedule may raise `CycleOverflow` (R343). -/
def transfer (e : Nat) (s : State) : Except State State :=
  let s1 := flushBlock e s
  match schedule e (clocksNeeded s1.carry) with
  | some c => .ok { s1 with nextTransferCyc := c }
  | none => .error (raiseFault .cycleOverflow (e + clocksNeeded s1.carry) s1)

end Sys2Proof.Machine
end

