-- ==== Sys2Proof/Machine/FrameSequencer.lean ====
section
/-! DEFINITION. The frame sequencer (spec/40_frame_sequencer.md): the tick state machine, the `$17` write with its
jitter latch, the catch-up loop, the status read and the query, and the meanings of WR_FRAME, RUN, RD_STATUS, QRY. -/

namespace Sys2Proof.Machine

/-! ## Clocks and ticks (R148 to R156) -/

/-- `EnvelopeClock()` (R155). -/
def envelopeClock (s : State) : State :=
  { s with
    p1 := s.p1.envelopeClock
    p2 := s.p2.envelopeClock
    tri := s.tri.envelopeClock
    noi := s.noi.envelopeClock }

/-- `LengthClock()`: the length counters and the two sweep units (R156). -/
def lengthClock (s : State) : State :=
  { s with
    p1 := s.p1.lengthClock
    p2 := s.p2.lengthClock
    tri := s.tri.lengthClock
    noi := s.noi.lengthClock }

/-- The wrap of the step counter (R152). -/
def wrapTick (s : State) : State := { s with tick := 0 }

/-- Mode-0 step 4: both clocks, the raise, the wrap (R148, R152, R153). -/
def fourStepLast (s : State) : State × Option Interrupt :=
  let r := raiseFrameIrq (lengthClock (envelopeClock s))
  (wrapTick r.1, r.2)

/-- The actions of step `k` of a mode, and the interrupt they raise (R148 to R150). -/
def stepActions : FrameMode → Nat → State → State × Option Interrupt
  | .fourStep, 1, s => (envelopeClock s, none)
  | .fourStep, 2, s => (lengthClock (envelopeClock s), none)
  | .fourStep, 3, s => (envelopeClock s, none)
  | .fourStep, 4, s => fourStepLast s
  | .fiveStep, 1, s => (lengthClock (envelopeClock s), none)
  | .fiveStep, 2, s => (envelopeClock s, none)
  | .fiveStep, 3, s => (lengthClock (envelopeClock s), none)
  | .fiveStep, 4, s => (envelopeClock s, none)
  | .fiveStep, 5, s => (wrapTick s, none)
  | _, _, s => (s, none)

/-- `Tick(n)` (R148): count the step, reschedule (R151), act. The reschedule may raise `CycleOverflow` (R343). -/
def tickEvent (n : Nat) (s : State) : Except State (State × Option Interrupt) :=
  let k := s.tick + 1
  let s1 := { s with tick := k }
  match schedule n (tickDelta s.mode k) with
  | some c => .ok (stepActions s.mode k { s1 with nextTickCyc := c })
  | none => .error (raiseFault .cycleOverflow (n + tickDelta s.mode k) s1)

/-! ## The frame mode register (R157 to R162) -/

/-- The immediate clock of a `$17` write with bit 7 set (R159). -/
def immediateClock (m : FrameMode) (s : State) : State :=
  match m with
  | .fourStep => s
  | .fiveStep => lengthClock (envelopeClock s)

/-- `ApplyFrame(v, e)` (R159); the reschedule may raise `CycleOverflow` (R343). -/
def applyFrame (v : Byte) (e : Nat) (s : State) : Except State State :=
  let s1 := { s with mode := frameMode v, suppress := frameSuppress v, tick := 0 }
  match schedule e (tickDelta (frameMode v) 0) with
  | some c => .ok (immediateClock (frameMode v) (clearIrqIf (frameSuppress v) { s1 with nextTickCyc := c }))
  | none => .error (raiseFault .cycleOverflow (e + tickDelta (frameMode v) 0) s1)

/-- `WriteFrame(v)` (R157): deferred one cycle on an odd cycle, applied at once on an even one (R161, R162). -/
def writeFrame (v : Byte) (s : State) : Except State State :=
  let s1 := clearIrqIf (frameSuppress v) s
  if s.globalCyc % 2 = 1 then
    match schedule s.globalCyc 1 with
    | some c => .ok { s1 with pending := some (c, v) }
    | none => .error (raiseFault .cycleOverflow (s.globalCyc + 1) s1)
  else applyFrame v s.globalCyc { s1 with pending := none }

/-! ## The catch-up loop (R140 to R147) -/

/-- The boundary of the next iteration: the least of the target and the scheduled cycles (R143). -/
def nextBoundary (t : Nat) (s : State) : Nat :=
  let n := min t (min s.nextTickCyc s.nextTransferCyc)
  match s.pending with
  | some (pc, _) => min n pc
  | none => n

/-- The tick due at `n`, if it is. -/
def tickIfDue (n : Nat) (s : State) : Except State (State × Option Interrupt) :=
  if n = s.nextTickCyc then tickEvent n s else .ok (s, none)

/-- The transfer due at `n`, if it is. -/
def transferIfDue (n : Nat) (s : State) : Except State State :=
  if n = s.nextTransferCyc then transfer n s else .ok s

/-- The jitter resolution due at `n`, if it is (R160). -/
def resolveIfDue (n : Nat) (s : State) : Except State State :=
  match s.pending with
  | some (pc, v) => if pc = n then applyFrame v n { s with pending := none } else .ok s
  | none => .ok s

/-- The events due at `n`, in the order tick, transfer, jitter resolution (R144). -/
def eventsAt (n : Nat) (s : State) : Except State (State × Option Interrupt) :=
  match tickIfDue n s with
  | .error s1 => .error s1
  | .ok (s1, irq) =>
    match transferIfDue n s1 with
    | .error s2 => .error s2
    | .ok s2 =>
      match resolveIfDue n s2 with
      | .error s3 => .error s3
      | .ok s3 => .ok (s3, irq)

/-- One iteration of the loop (R140): play up to the boundary, perform what is due there, move the clock. -/
def runIteration (t : Nat) (s : State) : Except State (State × Option Interrupt) :=
  let n := nextBoundary t s
  match eventsAt n (play s.globalCyc n s) with
  | .error s1 => .error s1
  | .ok (s1, irq) => .ok ({ s1 with globalCyc := n }, irq)

/-- The loop of `run_to` (R140), with a bound on its iterations. -/
def runLoop : Nat → Nat → State → Option Interrupt → Except State (State × Option Interrupt)
  | 0, _, s, irq => .ok (s, irq)
  | fuel + 1, t, s, irq =>
    if s.globalCyc < t then
      match runIteration t s with
      | .error s1 => .error s1
      | .ok (s1, i) => runLoop fuel t s1 (orIrq irq i)
    else .ok (s, irq)

/-- `run_to(t)` (R140, R141). R385 bounds the iterations by `t - global_cyc` where R147 holds; the bound here is
enough in every state (Laws/RunTo.lean; log entry 15, DESIGN CHOICE). -/
def runTo (t : Nat) (s : State) : Except State (State × Option Interrupt) := runLoop (3 * t + 2) t s none

/-! ## Status read and query (R163 to R167) -/

/-- `ReadStatus(c)`: run to `c - 1`, sample the byte, clear the flag, run to `c` (R165, R166). -/
def readStatus (c : Nat) (s : State) : Except State (State × OpResult) :=
  match runTo (c - 1) s with
  | .error s1 => .error s1
  | .ok (s1, i1) =>
    match runTo c (clearIrq s1) with
    | .error s2 => .error s2
    | .ok (s2, i2) => .ok (s2, .status (orIrq i1 i2) (statusByte s1))

/-- `run_to` with its result (R142). -/
def runOperation (t : Nat) (s : State) : Except State (State × OpResult) :=
  match runTo t s with
  | .error s1 => .error s1
  | .ok (s1, irq) => .ok (s1, .interrupt irq)

/-! ## Meanings -/

/-- WR_FRAME (R157). -/
def execWrFrame (v : Byte) (s : State) : Host.Outcome State Fault Refusal := performWriteE (writeFrame v) s

/-- RUN (R140). On a faulted state it returns `None` (R340). -/
def execRun (t : OperandWord) (s : State) : Host.Outcome State Fault Refusal :=
  perform (.interrupt none) (runOperation t.toNat) s

/-- RD_STATUS (R165). On a faulted state it returns `None` (R340). -/
def execRdStatus (c : OperandWord) (s : State) : Host.Outcome State Fault Refusal :=
  perform (.interrupt none) (readStatus c.toNat) s

/-- QRY (R163): the next tick's cycle; no state is written. -/
def execQry (s : State) : Host.Outcome State Fault Refusal :=
  perform .nothing (fun s => .ok (s, .cycle s.nextTickCyc)) s

end Sys2Proof.Machine
end

