-- ==== Sys2Proof/Machine/Stub.lean ====
section
/-! DEFINITION. The DMC stub and the unused offsets (spec/45_dmc_and_unused.md): every write is accepted and has no
effect; no state is written and no flag, fault or interrupt is raised. -/

namespace Sys2Proof.Machine

/-- A write the block accepts and ignores (R300 to R302). -/
def acceptAndIgnore (s : State) : Host.Outcome State Fault Refusal := performWrite (fun s => s) s

/-- WR_DMC_0 (R300). -/
def execWrDmc0 (_v : Byte) (s : State) : Host.Outcome State Fault Refusal := acceptAndIgnore s

/-- WR_DMC_1 (R300). -/
def execWrDmc1 (_v : Byte) (s : State) : Host.Outcome State Fault Refusal := acceptAndIgnore s

/-- WR_DMC_2 (R300). -/
def execWrDmc2 (_v : Byte) (s : State) : Host.Outcome State Fault Refusal := acceptAndIgnore s

/-- WR_DMC_3 (R300). -/
def execWrDmc3 (_v : Byte) (s : State) : Host.Outcome State Fault Refusal := acceptAndIgnore s

/-- WR_UNUSED_14 (R301). -/
def execWrUnused14 (_v : Byte) (s : State) : Host.Outcome State Fault Refusal := acceptAndIgnore s

/-- WR_UNUSED_16 (R302). -/
def execWrUnused16 (_v : Byte) (s : State) : Host.Outcome State Fault Refusal := acceptAndIgnore s

end Sys2Proof.Machine
end

