-- ==== Sys2Proof/Machine/Dispatch.lean ====
section
/-! DEFINITION. The dispatch of an instruction to its meaning: one arm per constructor, in the order of
spec/opcode_table.json (the register-write arbiter of spec/40_frame_sequencer.md R168). -/

namespace Sys2Proof.Machine

/-- What one host operation does. -/
def exec (i : Instr) (s : State) : Host.Outcome State Fault Refusal :=
  match i with
  | .wrP1Ctrl v => Sys2Proof.Machine.execWrP1Ctrl v s
  | .wrP1Sweep v => Sys2Proof.Machine.execWrP1Sweep v s
  | .wrP1Tlo v => Sys2Proof.Machine.execWrP1Tlo v s
  | .wrP1Thi v => Sys2Proof.Machine.execWrP1Thi v s
  | .wrP2Ctrl v => Sys2Proof.Machine.execWrP2Ctrl v s
  | .wrP2Sweep v => Sys2Proof.Machine.execWrP2Sweep v s
  | .wrP2Tlo v => Sys2Proof.Machine.execWrP2Tlo v s
  | .wrP2Thi v => Sys2Proof.Machine.execWrP2Thi v s
  | .wrTriLin v => Sys2Proof.Machine.execWrTriLin v s
  | .wrTriUnused v => Sys2Proof.Machine.execWrTriUnused v s
  | .wrTriTlo v => Sys2Proof.Machine.execWrTriTlo v s
  | .wrTriThi v => Sys2Proof.Machine.execWrTriThi v s
  | .wrNoiCtrl v => Sys2Proof.Machine.execWrNoiCtrl v s
  | .wrNoiUnused v => Sys2Proof.Machine.execWrNoiUnused v s
  | .wrNoiPer v => Sys2Proof.Machine.execWrNoiPer v s
  | .wrNoiLen v => Sys2Proof.Machine.execWrNoiLen v s
  | .wrDmc0 v => Sys2Proof.Machine.execWrDmc0 v s
  | .wrDmc1 v => Sys2Proof.Machine.execWrDmc1 v s
  | .wrDmc2 v => Sys2Proof.Machine.execWrDmc2 v s
  | .wrDmc3 v => Sys2Proof.Machine.execWrDmc3 v s
  | .wrUnused14 v => Sys2Proof.Machine.execWrUnused14 v s
  | .wrEnable v => Sys2Proof.Machine.execWrEnable v s
  | .wrUnused16 v => Sys2Proof.Machine.execWrUnused16 v s
  | .wrFrame v => Sys2Proof.Machine.execWrFrame v s
  | .rdStatus c => Sys2Proof.Machine.execRdStatus c s
  | .run t => Sys2Proof.Machine.execRun t s
  | .qry => Sys2Proof.Machine.execQry s

end Sys2Proof.Machine
end

