-- ==== Sys2Proof/Machine/Fetch.lean ====
section
/-! DEFINITION. Taking the host's next command off its stream, and the two command forms that have no row in the
opcode table because the block faults on them (spec/60_exceptions.md R341, R342). -/

namespace Sys2Proof.Machine

/-- The host issues the command at the front of its stream; `rest` is what it has still to issue. -/
def State.issued (s : State) (rest : List Byte) : State := { s with queue := rest }

/-- A WRITE outside the window: `AddressOutOfWindow`, raised before any state is written (R341). -/
def execWriteOutside (a : Offset) (s : State) : Host.Outcome State Fault Refusal :=
  perform .nothing (fun s => .error (raiseFault .addressOutOfWindow a.toNat s)) s

/-- A READ of an offset other than `$15`: `ReadNotServed`, raised before either `run_to` phase (R342). -/
def execReadOutside (a : Offset) (s : State) : Host.Outcome State Fault Refusal :=
  perform (.interrupt none) (fun s => .error (raiseFault .readNotServed a.toNat s)) s

/-- Run what the decoder read at the front of the stream. An illegal word is refused (R118, R344). -/
def runDecoded (d : Decoded) (s : State) : Host.Outcome State Fault Refusal :=
  match d with
  | .instr i rest => exec i (s.issued rest)
  | .writeOutside a rest => execWriteOutside a (s.issued rest)
  | .readOutside a rest => execReadOutside a (s.issued rest)
  | .illegal r => .refused (.illegalCommand r)
  | .truncated => .refused .truncatedCommand

/-- One command of the host. With none left the block is passive and holds its state (R359; log entry 2). -/
def stepQueue (s : State) : Host.Outcome State Fault Refusal :=
  match s.queue with
  | [] => .next s
  | _ :: _ => runDecoded (decode s.queue) s

/-- Put a command's bytes at the front of the stream. -/
def State.withCommand (s : State) (bytes : List Byte) : State := { s with queue := bytes ++ s.queue }

/-- `CATCHUP` (R139): `QRY`, then `RUN @r` with the `r` it returned; on a faulted block `QRY` returns nothing and there
is no `r` to run to. -/
def catchUp (s : State) : Host.Outcome State Fault Refusal :=
  match exec .qry s with
  | .next s1 =>
    match s1.results.getLast? with
    | some (.cycle r) => exec (.run (BitVec.ofNat 64 r)) s1
    | _ => .next s1
  | o => o

end Sys2Proof.Machine
end

