-- ==== Sys2Proof/Machine/Step.lean ====
section
/-! DEFINITION. One step of the machine: one host operation (spec/00_scope.md R5, R6). -/

namespace Sys2Proof.Machine

/-- One step: the host's next command, applied to the block. -/
def step (s : State) : Host.Outcome State Fault Refusal := stepQueue s

/-- `s` with the command whose bits are `w` (zeros above `nbits`) next in the host's stream. -/
def State.withFetchWord (s : State) (nbits w : Nat) : State := s.withCommand (tableBytes nbits w)

end Sys2Proof.Machine
end

