-- ==== Sys2Proof/Safety.lean ====
section
/-! DEFINITION. What the rules promise of every state between operations, as predicates, and what a run without a
fault is. Claims are stated in these terms. -/

namespace Sys2Proof.Machine

/-- R147: every scheduled cycle is strictly after the clock. -/
def Scheduled (s : State) : Prop :=
  s.globalCyc < s.nextTickCyc ∧ s.globalCyc < s.nextTransferCyc ∧
    ∀ pc v, s.pending = some (pc, v) → s.globalCyc < pc

/-- R7, R343: the clock, the next tick and the pending cycle are 64-bit numbers. The next transfer is not listed: its
power-on value is an open parameter (log entry 7). -/
def CyclesFit (s : State) : Prop :=
  s.globalCyc ≤ maxCycle ∧ s.nextTickCyc ≤ maxCycle ∧ ∀ pc v, s.pending = some (pc, v) → pc ≤ maxCycle

/-- R84: without a fault the trace holds one element for every cycle since the last transfer. -/
def TraceCovers (s : State) : Prop :=
  s.fault = none → s.lastFrameCyc ≤ s.globalCyc ∧ s.trace.length = s.globalCyc - s.lastFrameCyc

/-- The greatest step counter between events, by mode (R34). -/
def lastIdleStep : FrameMode → Nat
  | .fourStep => 3
  | .fiveStep => 4

/-- R34: the step counter is at most 5, and without a fault within its mode's range. -/
def StepInRange (s : State) : Prop := s.tick ≤ 5 ∧ (s.fault = none → s.tick ≤ lastIdleStep s.mode)

/-- R53, R67, R76: the bounds of the channel timers. -/
def TimersInRange (s : State) : Prop :=
  s.p1.timerCtr ≤ 4095 ∧ s.p2.timerCtr ≤ 4095 ∧ s.tri.timerCtr ≤ 2047 ∧ s.noi.timerCtr ≤ 4067

/-- R55: the constants that tell the pulse channels apart. -/
def ConstantsHold (s : State) : Prop := s.p1.isSecond = false ∧ s.p2.isSecond = true

/-- R77: the shift register is never 0. -/
def LfsrAlive (s : State) : Prop := s.noi.lfsr ≠ 0

/-- R197: a disabled channel's length counter is 0 (under the default of R18). -/
def DisabledInactive (s : State) : Prop :=
  (s.p1.len.enabled = false → s.p1.len.count = 0) ∧ (s.p2.len.enabled = false → s.p2.len.count = 0) ∧
    (s.tri.len.enabled = false → s.tri.len.count = 0) ∧ (s.noi.len.enabled = false → s.noi.len.count = 0)

/-- R160, R162: a pending write resolves at the next cycle, an even one. -/
def PendingNext (s : State) : Prop := ∀ pc v, s.pending = some (pc, v) → pc = s.globalCyc + 1 ∧ pc % 2 = 0

/-- A run that has a normal end so far: no fault is recorded (R384). -/
def NotFaulted (s : State) : Prop := s.fault = none

/-- A register write: an instruction with no cycle operand other than the query (R168). -/
def isWrite (i : Instr) : Bool := i.operand.isNone && i != .qry

/-- The block of `s` without the observation of the run: what "identical final state" of R146 compares. The host's
stream and the sink calls stay, the list of operation results is set aside. -/
def withoutResults (s : State) : State := { s with results := [] }

end Sys2Proof.Machine
end

