-- ==== Sys2Proof/Certificates/Slice0/Obligations.lean ====
section
/-! DEFINITION. The statements for the provers, one `def Obligations.<Name> : Prop` each. -/

open Sys2Proof Sys2Proof.Machine

/-! ## Encoding -/

/-- spec/30_encoding.md sections 1, 2: the decoder reads back every instruction the encoder writes, with every operand
value, and leaves what follows it in the stream. The command words are the spec's decision D1; the byte order of the
stream is the model's choice (log entry 1). -/
def Obligations.DecodeOfEncodeIsTheInstruction : Prop :=
  ∀ (i : Instr) (rest : List Byte), i.wellFormed = true → decode (encode i ++ rest) = .instr i rest

/-- spec/30_encoding.md sections 1, 2: an instruction is read only from its own encoding. The words are the spec's
decision D1, the byte order log entry 1. -/
def Obligations.OnlyItsEncodingDecodesToAnInstruction : Prop :=
  ∀ (bs rest : List Byte) (i : Instr), decode bs = .instr i rest → bs = encode i ++ rest

/-- R118 (the spec's decision D1): the decoder refuses a command exactly when one of the four checks refuses its word.
-/
def Obligations.DecoderRefusesExactlyIllegalWords : Prop :=
  ∀ (w : CmdWord) (rest : List Byte), (∃ r, decode (wordBytes w ++ rest) = .illegal r) ↔ legalWord w = false

/-- Words of spec/95_test_vectors.md section 3 and the `match` words of the opcode table decode to the operations they
stand for. A sanity statement. The words are the spec's decision D1. -/
def Obligations.WrittenOutWordsDecode : Prop :=
  decodeTableWord 16 0x1501 = some (.wrEnable 0x01) ∧ decodeTableWord 16 0x009F = some (.wrP1Ctrl 0x9F) ∧
  decodeTableWord 16 0x0709 = some (.wrP2Thi 0x09) ∧ decodeTableWord 16 0x0BF8 = some (.wrTriThi 0xF8) ∧
  decodeTableWord 16 0x0C30 = some (.wrNoiCtrl 0x30) ∧ decodeTableWord 16 0x1780 = some (.wrFrame 0x80) ∧
  decodeTableWord 16 0x5500 = some (.rdStatus 0) ∧ decodeTableWord 80 (0x8000 + 29831 * 2 ^ 16) = some (.run 29831) ∧
  decodeTableWord 16 0xC000 = some .qry

/-! ## The step -/

/-- One step is one host operation (R5, R6): where the stream starts with a command that decodes to `i`, the step is
`exec i` on the state with that command taken off the stream. The stream is the model's form of the host (the spec's
decision D21, log entry 2). -/
def Obligations.StepRunsTheDecodedInstruction : Prop :=
  ∀ (s : State) (i : Instr) (rest : List Byte), decode s.queue = .instr i rest → i.wellFormed = true →
    step s = exec i { s with queue := rest }

/-- With no command left the block holds its whole state (R359); an illegal word is refused (R118, R344). The refusal
is the spec's decision D1, the byte order of the stream log entry 1. -/
def Obligations.StepWithoutAnInstruction : Prop :=
  (∀ s : State, s.queue = [] → step s = .next s) ∧
  (∀ (s : State) (w : CmdWord) (rest : List Byte), legalWord w = false → s.queue = wordBytes w ++ rest →
    ∃ r, step s = .refused (.illegalCommand r))

/-- R341 (the spec's decision D11): a write at an offset in `$18`–`$1F` records `AddressOutOfWindow` and has no other
effect. The word is the spec's decision D1, the byte order of the stream log entry 1. -/
def Obligations.WriteOutsideTheWindowFaults : Prop :=
  ∀ (s : State) (a : Offset) (v : Byte) (rest : List Byte), 0x18 ≤ a.toNat → s.fault = none →
    s.queue = wordBytes (writeWord a v) ++ rest →
    step s = .next { s with
      queue := rest
      fault := some .addressOutOfWindow
      faultInfo := some a.toNat
      results := s.results ++ [.nothing] }

/-- R342 (the spec's decision D10): a READ at an offset other than `$15` records `ReadNotServed`, before either
`run_to` phase. The READ word of offset `a` is `0x40 | a` over a data field of 0 (decision D1); the byte order of
the stream is log entry 1, that a faulted read returns nothing log entry 12. -/
def Obligations.ReadOfAnotherOffsetFaults : Prop :=
  ∀ (s : State) (a : Offset) (x : OperandWord) (rest : List Byte), a ≠ 0x15 → s.fault = none →
    s.queue = wordBytes ((2 : BitVec 3) ++ a ++ (0 : Byte)) ++ operandBytes x ++ rest →
    step s = .next { s with
      queue := rest
      fault := some .readNotServed
      faultInfo := some a.toNat
      results := s.results ++ [.nothing] }

/-! ## Power-on -/

/-- R370, R371, R319: the power-on state, field by field. The values are the spec's decisions D16 and D25 (log entry
9); the status byte reads 0 and the query returns 7459. -/
def Obligations.PowerOnState : Prop :=
  State.reset.globalCyc = 0 ∧ State.reset.mode = .fourStep ∧ State.reset.suppress = false ∧ State.reset.tick = 0 ∧
  State.reset.nextTickCyc = 7459 ∧ State.reset.nextTransferCyc = clocksNeeded Config.carry0 ∧
  State.reset.lastFrameCyc = 0 ∧ State.reset.pending = none ∧ State.reset.irqFlag = false ∧ State.reset.fault = none ∧
  (∀ p second, p = Pulse.reset second → p.len = ⟨false, 0⟩ ∧ p.env = ⟨false, false, 0, false, 0, 0⟩ ∧ p.duty = 0 ∧
    p.sweepEn = false ∧ p.sweepPeriod = 0 ∧ p.negate = false ∧ p.shift = 0 ∧ p.sweepReload = false ∧
    p.sweepDivider = 0 ∧ p.period = 0 ∧ p.timerCtr = 0 ∧ p.dutyPos = 0 ∧ p.isSecond = second) ∧
  State.reset.p1 = Pulse.reset false ∧ State.reset.p2 = Pulse.reset true ∧
  State.reset.tri = ⟨⟨false, 0⟩, false, 0, 0, false, 0, 0, 0⟩ ∧
  State.reset.noi = ⟨⟨false, 0⟩, ⟨false, false, 0, false, 0, 0⟩, .long, 0, 0, 1⟩ ∧
  State.reset.carry = Config.carry0 ∧ State.reset.trace = [] ∧ statusByte State.reset = 0

/-! ## Register writes: what each stores, and that it stores nothing else -/

/-- R220, R121: `$00` / `$04` store duty, halt, constant volume and volume, and nothing else. The bit layout is the
spec's general knowledge. -/
def Obligations.PulseControlWriteStoresItsFields : Prop :=
  ∀ (v : Byte) (s : State), s.fault = none →
    exec (.wrP1Ctrl v) s = .next { s with
      p1 := { s.p1 with
        duty := v.extractLsb' 6 2
        env := { s.p1.env with halt := v.getLsbD 5, constVol := v.getLsbD 4, vol := v.extractLsb' 0 4 } }
      results := s.results ++ [.nothing] } ∧
    exec (.wrP2Ctrl v) s = .next { s with
      p2 := { s.p2 with
        duty := v.extractLsb' 6 2
        env := { s.p2.env with halt := v.getLsbD 5, constVol := v.getLsbD 4, vol := v.extractLsb' 0 4 } }
      results := s.results ++ [.nothing] }

/-- R221, R122: `$01` / `$05` store the sweep parameters and set the reload flag. The bit layout is the spec's general
knowledge. The reload is its decision D23. -/
def Obligations.PulseSweepWriteStoresItsFields : Prop :=
  ∀ (v : Byte) (s : State), s.fault = none →
    exec (.wrP1Sweep v) s = .next { s with
      p1 := { s.p1 with
        sweepEn := v.getLsbD 7
        sweepPeriod := v.extractLsb' 4 3
        negate := v.getLsbD 3
        shift := v.extractLsb' 0 3
        sweepReload := true }
      results := s.results ++ [.nothing] } ∧
    exec (.wrP2Sweep v) s = .next { s with
      p2 := { s.p2 with
        sweepEn := v.getLsbD 7
        sweepPeriod := v.extractLsb' 4 3
        negate := v.getLsbD 3
        shift := v.extractLsb' 0 3
        sweepReload := true }
      results := s.results ++ [.nothing] }

/-- R222, R262, R138: a timer-low write (`$02`, `$06`, `$0A`) replaces bits 7:0 of the period and keeps bits 10:8. The
bit layout is the spec's general knowledge. -/
def Obligations.TimerLowWriteReplacesTheLowByte : Prop :=
  ∀ (v : Byte) (s : State), s.fault = none →
    (∃ q : BitVec 11, q.extractLsb' 0 8 = v ∧ q.extractLsb' 8 3 = s.p1.period.extractLsb' 8 3 ∧
      exec (.wrP1Tlo v) s = .next { s with
        p1 := { s.p1 with period := q }
        results := s.results ++ [.nothing] }) ∧
    (∃ q : BitVec 11, q.extractLsb' 0 8 = v ∧ q.extractLsb' 8 3 = s.p2.period.extractLsb' 8 3 ∧
      exec (.wrP2Tlo v) s = .next { s with
        p2 := { s.p2 with period := q }
        results := s.results ++ [.nothing] }) ∧
    (∃ q : BitVec 11, q.extractLsb' 0 8 = v ∧ q.extractLsb' 8 3 = s.tri.period.extractLsb' 8 3 ∧
      exec (.wrTriTlo v) s = .next { s with
        tri := { s.tri with period := q }
        results := s.results ++ [.nothing] })

/-- R223, R194, R202: the pulse top register `$03` / `$07` replaces period bits 10:8, restarts the duty position and
the envelope, and loads the length counter if the channel is enabled (the default of R18, log entry 6). The bit layout
is the spec's general knowledge. The envelope restart is its decision D23, the timer that keeps running D18. -/
def Obligations.PulseTopWriteLoadsAndRestarts : Prop :=
  ∀ (v : Byte) (s : State), s.fault = none →
    (∃ q : BitVec 11, q.extractLsb' 8 3 = v.extractLsb' 0 3 ∧ q.extractLsb' 0 8 = s.p1.period.extractLsb' 0 8 ∧
      exec (.wrP1Thi v) s = .next { s with
        p1 := { s.p1 with
          period := q
          len := { s.p1.len with
            count := if s.p1.len.enabled then lengthEntry (v.extractLsb' 3 5) else s.p1.len.count }
          dutyPos := 0
          env := { s.p1.env with start := true } }
        results := s.results ++ [.nothing] }) ∧
    (∃ q : BitVec 11, q.extractLsb' 8 3 = v.extractLsb' 0 3 ∧ q.extractLsb' 0 8 = s.p2.period.extractLsb' 0 8 ∧
      exec (.wrP2Thi v) s = .next { s with
        p2 := { s.p2 with
          period := q
          len := { s.p2.len with
            count := if s.p2.len.enabled then lengthEntry (v.extractLsb' 3 5) else s.p2.len.count }
          dutyPos := 0
          env := { s.p2.env with start := true } }
        results := s.results ++ [.nothing] })

/-- R260, R125: `$08` stores the control flag and the reload value; the linear counter is untouched. The bit layout is
the spec's general knowledge. -/
def Obligations.TriangleLinearWriteStoresItsFields : Prop :=
  ∀ (v : Byte) (s : State), s.fault = none →
    exec (.wrTriLin v) s = .next { s with
      tri := { s.tri with control := v.getLsbD 7, reloadVal := v.extractLsb' 0 7 }
      results := s.results ++ [.nothing] }

/-- R263, R194: the triangle's top register `$0B`. The reset of the sequencer position is the spec's decision D18. The
bit layout is the spec's general knowledge. The linear reload is its decision D23; the load only while enabled is the
default of R18 (log entry 6). -/
def Obligations.TriangleTopWriteLoadsAndRestarts : Prop :=
  ∀ (v : Byte) (s : State), s.fault = none →
    ∃ q : BitVec 11, q.extractLsb' 8 3 = v.extractLsb' 0 3 ∧ q.extractLsb' 0 8 = s.tri.period.extractLsb' 0 8 ∧
      exec (.wrTriThi v) s = .next { s with
        tri := { s.tri with
          period := q
          len := { s.tri.len with
            count := if s.tri.len.enabled then lengthEntry (v.extractLsb' 3 5) else s.tri.len.count }
          linearReload := true
          seqPos := 0 }
        results := s.results ++ [.nothing] }

/-- R280, R282, R283, R202: the noise channel's registers `$0C`, `$0E`, `$0F`. The bit layouts are the spec's general
knowledge. That a `$0F` write starts the envelope (R202) is its general knowledge and decision D23 (log entry 17), the
shift register left alone its decision D18, the load only while enabled the default of R18 (log entry 6). -/
def Obligations.NoiseWritesStoreTheirFields : Prop :=
  ∀ (v : Byte) (s : State), s.fault = none →
    exec (.wrNoiCtrl v) s = .next { s with
      noi := { s.noi with
        env := { s.noi.env with halt := v.getLsbD 5, constVol := v.getLsbD 4, vol := v.extractLsb' 0 4 } }
      results := s.results ++ [.nothing] } ∧
    exec (.wrNoiPer v) s = .next { s with
      noi := { s.noi with
        mode := if v.getLsbD 7 then .short else .long
        periodIdx := v.extractLsb' 0 4 }
      results := s.results ++ [.nothing] } ∧
    exec (.wrNoiLen v) s = .next { s with
      noi := { s.noi with
        len := { s.noi.len with
          count := if s.noi.len.enabled then lengthEntry (v.extractLsb' 3 5) else s.noi.len.count }
        env := { s.noi.env with start := true } }
      results := s.results ++ [.nothing] }

/-- R301, R302: the writes at `$14` and `$16` (words `0x14vv`, `0x16vv`) write no state and raise nothing. The words are
the spec's decision D1; their low byte coming first in the stream is the model's choice (log entry 1). -/
def Obligations.UnusedOffsetWritesHaveNoEffect : Prop :=
  ∀ (v : Byte) (s : State) (rest : List Byte),
    decode (v :: 0x14 :: rest) = .instr (.wrUnused14 v) rest ∧ decode (v :: 0x16 :: rest) = .instr (.wrUnused16 v) rest ∧
    (s.fault = none →
      exec (.wrUnused14 v) s = .next { s with results := s.results ++ [.nothing] } ∧
      exec (.wrUnused16 v) s = .next { s with results := s.results ++ [.nothing] })

/-- R261, R281, R300: the writes at `$09`, `$0D` and `$10`–`$13` write no state and raise nothing. That `$09` and
`$0D` are the unused offsets is the spec's general knowledge. -/
def Obligations.IgnoredChannelWritesHaveNoEffect : Prop :=
  ∀ (v : Byte) (s : State), s.fault = none →
    exec (.wrTriUnused v) s = .next { s with results := s.results ++ [.nothing] } ∧
    exec (.wrNoiUnused v) s = .next { s with results := s.results ++ [.nothing] } ∧
    exec (.wrDmc0 v) s = .next { s with results := s.results ++ [.nothing] } ∧
    exec (.wrDmc1 v) s = .next { s with results := s.results ++ [.nothing] } ∧
    exec (.wrDmc2 v) s = .next { s with results := s.results ++ [.nothing] } ∧
    exec (.wrDmc3 v) s = .next { s with results := s.results ++ [.nothing] }

/-- R190: a `$15` write stores each channel's enable bit and zeroes the counters of the channels whose bit is 0; bits
7:4 are ignored (R193). That they are ignored is the spec's decision D33. The word `0x15vv` is its decision D1;
its low byte coming first in the stream is the model's choice (log entry 1). -/
def Obligations.EnableWriteSetsFlagsAndZeroes : Prop :=
  ∀ (v : Byte) (s : State), s.fault = none →
    (∀ rest : List Byte, decode (v :: 0x15 :: rest) = .instr (.wrEnable v) rest) ∧
    exec (.wrEnable v) s = .next { s with
      p1 := { s.p1 with len := ⟨v.getLsbD 0, if v.getLsbD 0 then s.p1.len.count else 0⟩ }
      p2 := { s.p2 with len := ⟨v.getLsbD 1, if v.getLsbD 1 then s.p2.len.count else 0⟩ }
      tri := { s.tri with len := ⟨v.getLsbD 2, if v.getLsbD 2 then s.tri.len.count else 0⟩ }
      noi := { s.noi with len := ⟨v.getLsbD 3, if v.getLsbD 3 then s.noi.len.count else 0⟩ }
      results := s.results ++ [.nothing] }

/-- R192: a `$15` write that enables a channel sets its flag only: the channel is otherwise what it was, and its length
counter is not loaded. -/
def Obligations.EnablingLoadsNoLengthCounter : Prop :=
  ∀ (v : Byte) (s : State), s.fault = none → ∃ u, exec (.wrEnable v) s = .next u ∧
    (v.getLsbD 0 = true → u.p1 = { s.p1 with len := { s.p1.len with enabled := true } }) ∧
    (v.getLsbD 1 = true → u.p2 = { s.p2 with len := { s.p2.len with enabled := true } }) ∧
    (v.getLsbD 2 = true → u.tri = { s.tri with len := { s.tri.len with enabled := true } }) ∧
    (v.getLsbD 3 = true → u.noi = { s.noi with len := { s.noi.len with enabled := true } })

/-- R191: a `$15` write with a channel's bit clear zeroes its counter, makes its status bit read 0 whatever the
counter was, and silences it: a pulse or noise channel puts out level 0, and the triangle's sequencer stands still. -/
def Obligations.DisablingZeroesAndSilences : Prop :=
  ∀ (v : Byte) (s : State), s.fault = none → ∃ u, exec (.wrEnable v) s = .next u ∧
    (v.getLsbD 0 = false → u.p1.len.count = 0 ∧ (statusByte u).getLsbD 0 = false ∧ u.p1.level = 0) ∧
    (v.getLsbD 1 = false → u.p2.len.count = 0 ∧ (statusByte u).getLsbD 1 = false ∧ u.p2.level = 0) ∧
    (v.getLsbD 2 = false →
      u.tri.len.count = 0 ∧ (statusByte u).getLsbD 2 = false ∧ u.tri.stepTimer.seqPos = u.tri.seqPos) ∧
    (v.getLsbD 3 = false → u.noi.len.count = 0 ∧ (statusByte u).getLsbD 3 = false ∧ u.noi.level = 0)

/-! ## The frame mode register -/

/-- R157, R158, R159, R343: a `$17` write with bit 7 clear on an even cycle takes effect at once: the 4-step mode from
step 0, the next tick slot 0 later, bit 6 stored and, if set, the sticky flag cleared; where that tick would be above
`2^64 - 1` it raises `CycleOverflow` and the writes made before stand. The even-cycle clear of a pending write is the
spec's decision D5. That a write which keeps the mode resets too is D7; the fault is D12. -/
def Obligations.FrameWriteToFourStepOnAnEvenCycle : Prop :=
  ∀ (v : Byte) (s : State), s.fault = none → s.globalCyc % 2 = 0 → v.getLsbD 7 = false →
    exec (.wrFrame v) s = .next
      (if s.globalCyc + 7459 ≤ maxCycle then
        { s with
          mode := .fourStep
          suppress := v.getLsbD 6
          tick := 0
          nextTickCyc := s.globalCyc + 7459
          pending := none
          irqFlag := if v.getLsbD 6 then false else s.irqFlag
          results := s.results ++ [.nothing] }
      else
        { s with
          mode := .fourStep
          suppress := v.getLsbD 6
          tick := 0
          pending := none
          irqFlag := if v.getLsbD 6 then false else s.irqFlag
          fault := some .cycleOverflow
          faultInfo := some (s.globalCyc + 7459)
          results := s.results ++ [.nothing] })

/-- R159, R343: a `$17` write with bit 7 set on an even cycle enters the 5-step mode and clocks every envelope, the
linear counter, every length counter and both sweeps once, at once; where its next tick would be above `2^64 - 1` it
raises `CycleOverflow` and the writes made before stand. That a write which keeps the mode clocks too is the spec's
decision D7; the fault is D12, the even-cycle clear of a pending write D5. -/
def Obligations.FrameWriteToFiveStepOnAnEvenCycle : Prop :=
  ∀ (v : Byte) (s : State), s.fault = none → s.globalCyc % 2 = 0 → v.getLsbD 7 = true →
    exec (.wrFrame v) s = .next
      (if s.globalCyc + tickDelta .fiveStep 0 ≤ maxCycle then
        { s with
          mode := .fiveStep
          suppress := v.getLsbD 6
          tick := 0
          nextTickCyc := s.globalCyc + tickDelta .fiveStep 0
          pending := none
          irqFlag := if v.getLsbD 6 then false else s.irqFlag
          p1 := s.p1.envelopeClock.lengthClock
          p2 := s.p2.envelopeClock.lengthClock
          tri := s.tri.envelopeClock.lengthClock
          noi := s.noi.envelopeClock.lengthClock
          results := s.results ++ [.nothing] }
      else
        { s with
          mode := .fiveStep
          suppress := v.getLsbD 6
          tick := 0
          pending := none
          irqFlag := if v.getLsbD 6 then false else s.irqFlag
          fault := some .cycleOverflow
          faultInfo := some (s.globalCyc + tickDelta .fiveStep 0)
          results := s.results ++ [.nothing] })

/-- R157, R158, R161: a `$17` write on an odd cycle is deferred by exactly one cycle: it replaces any pending write
and changes nothing else but the sticky flag, which bit 6 clears at once; at the last cycle it raises `CycleOverflow`
(R343) and leaves the pending write. The replacement is the spec's decision D5, the clear at issue D6, the fault D12.
-/
def Obligations.FrameWriteOnAnOddCycleIsDeferred : Prop :=
  ∀ (v : Byte) (s : State), s.fault = none → s.globalCyc % 2 = 1 →
    (s.globalCyc < maxCycle → exec (.wrFrame v) s = .next { s with
      pending := some (s.globalCyc + 1, v)
      irqFlag := if v.getLsbD 6 then false else s.irqFlag
      results := s.results ++ [.nothing] }) ∧
    (s.globalCyc = maxCycle → exec (.wrFrame v) s = .next { s with
      irqFlag := if v.getLsbD 6 then false else s.irqFlag
      fault := some .cycleOverflow
      faultInfo := some (maxCycle + 1)
      results := s.results ++ [.nothing] })

/-! ## Ticks and clocks -/

/-- R149: the 4-step sequence clocks the envelopes on steps 1 to 4 and length and sweep on steps 2 and 4, and raises
the interrupt on step 4 unless suppressed before wrapping to step 0. -/
def Obligations.FourStepSequenceClocks : Prop :=
  ∀ s : State,
    stepActions .fourStep 1 s = (envelopeClock s, none) ∧
    stepActions .fourStep 2 s = (lengthClock (envelopeClock s), none) ∧
    stepActions .fourStep 3 s = (envelopeClock s, none) ∧
    stepActions .fourStep 4 s =
      ({ lengthClock (envelopeClock s) with irqFlag := !s.suppress || s.irqFlag, tick := 0 },
        if s.suppress then none else some .frame)

/-- R150: the 5-step sequence clocks the envelopes on steps 1 to 4 and length and sweep on steps 1 and 3, never raises
an interrupt, and wraps after step 5, which clocks nothing. -/
def Obligations.FiveStepSequenceClocks : Prop :=
  ∀ s : State,
    stepActions .fiveStep 1 s = (lengthClock (envelopeClock s), none) ∧
    stepActions .fiveStep 2 s = (envelopeClock s, none) ∧
    stepActions .fiveStep 3 s = (lengthClock (envelopeClock s), none) ∧
    stepActions .fiveStep 4 s = (envelopeClock s, none) ∧
    stepActions .fiveStep 5 s = ({ s with tick := 0 }, none)

/-- R148, R151, R343: a tick counts the step, reschedules by the table entry of the step just reached, and then acts;
a reschedule above `2^64 - 1` raises `CycleOverflow` after the count and before any clock. The slot is the spec's
decision D2, the fault D12. -/
def Obligations.TickCountsReschedulesAndActs : Prop :=
  ∀ (n : Nat) (s : State),
    tickEvent n s =
      if n + tickDelta s.mode (s.tick + 1) ≤ maxCycle then
        .ok (stepActions s.mode (s.tick + 1)
          { s with tick := s.tick + 1, nextTickCyc := n + tickDelta s.mode (s.tick + 1) })
      else .error { s with
        tick := s.tick + 1
        fault := some .cycleOverflow
        faultInfo := some (n + tickDelta s.mode (s.tick + 1)) }

/-- R156, R195, R196: the length clock counts each channel's length counter down by one if it is nonzero and the channel
is not halted (the triangle's halt is its control flag), clocks the sweep unit of each pulse channel, and writes
nothing else; no length counter rises. The triangle's halt is the spec's general knowledge. -/
def Obligations.LengthClockCountsDown : Prop :=
  ∀ s : State,
    lengthClock s = { s with
      p1 := Pulse.sweepClock { s.p1 with len := ⟨s.p1.len.enabled,
        if s.p1.len.count ≠ 0 ∧ s.p1.env.halt = false then s.p1.len.count - 1 else s.p1.len.count⟩ }
      p2 := Pulse.sweepClock { s.p2 with len := ⟨s.p2.len.enabled,
        if s.p2.len.count ≠ 0 ∧ s.p2.env.halt = false then s.p2.len.count - 1 else s.p2.len.count⟩ }
      tri := { s.tri with len := ⟨s.tri.len.enabled,
        if s.tri.len.count ≠ 0 ∧ s.tri.control = false then s.tri.len.count - 1 else s.tri.len.count⟩ }
      noi := { s.noi with len := ⟨s.noi.len.enabled,
        if s.noi.len.count ≠ 0 ∧ s.noi.env.halt = false then s.noi.len.count - 1 else s.noi.len.count⟩ } } ∧
    (lengthClock s).p1.len = ⟨s.p1.len.enabled,
      if s.p1.len.count ≠ 0 ∧ s.p1.env.halt = false then s.p1.len.count - 1 else s.p1.len.count⟩ ∧
    (lengthClock s).p2.len = ⟨s.p2.len.enabled,
      if s.p2.len.count ≠ 0 ∧ s.p2.env.halt = false then s.p2.len.count - 1 else s.p2.len.count⟩ ∧
    (lengthClock s).p1.len.count ≤ s.p1.len.count ∧ (lengthClock s).p2.len.count ≤ s.p2.len.count ∧
    (lengthClock s).tri.len.count ≤ s.tri.len.count ∧ (lengthClock s).noi.len.count ≤ s.noi.len.count

/-- R200 (its pseudocode and its derived consequence): without a start, an envelope clock counts the divider down; at 0
it reloads it with `vol` and lowers the decay level, which stays at 0 with the halt (loop) flag clear and returns to 15
with it set. So the restart's own clock gives 15, and every further `vol + 1` clocks lower it by one, for every `k`.
The envelope is the spec's general knowledge (decision D28). -/
def Obligations.EnvelopeDecaysEveryPeriod : Prop :=
  ∀ (e : Envelope) (k : Nat),
    (e.start = true →
      Envelope.clock^[k * (e.vol.toNat + 1) + 1] e = { e with
        start := false
        decay := BitVec.ofNat 4 (if e.halt then 15 - k % 16 else 15 - k)
        divider := e.vol }) ∧
    (e.start = false → k ≤ e.divider.toNat →
      Envelope.clock^[k] e = { e with divider := BitVec.ofNat 4 (e.divider.toNat - k) }) ∧
    (e.start = false →
      Envelope.clock^[e.divider.toNat + 1] e = { e with
        divider := e.vol
        decay := if 0 < e.decay.toNat then BitVec.ofNat 4 (e.decay.toNat - 1) else if e.halt then 15 else 0 })

/-- R226, R227, R228 (with the derived range): the sweep target is the period plus or minus the period shifted right,
less one more where pulse 1 negates; where the sweep clock writes the period, the new period is that target exactly and
lies in `3..0x7FF`, and where it does not, the period is kept; the divider counts down, or is reloaded at 0 or on the
reload flag, which that clears. The sweep is the spec's general knowledge (decisions D28, D29). -/
def Obligations.SweepClockWritesItsTarget : Prop :=
  ∀ p : Pulse,
    (p.sweepTarget =
      if p.negate = false then (p.period.toNat : Int) + (p.period.toNat / 2 ^ p.shift.toNat : Nat)
      else if p.isSecond = false then (p.period.toNat : Int) - (p.period.toNat / 2 ^ p.shift.toNat : Nat) - 1
      else (p.period.toNat : Int) - (p.period.toNat / 2 ^ p.shift.toNat : Nat)) ∧
    (if p.sweepDivider = 0 ∧ p.sweepEn = true ∧ p.shift ≠ 0 ∧ 8 ≤ p.period.toNat ∧ p.sweepTarget ≤ 0x7FF then
      (p.sweepClock.period.toNat : Int) = p.sweepTarget ∧ 3 ≤ p.sweepClock.period.toNat
    else p.sweepClock.period = p.period) ∧
    p.sweepClock = { p with
      period := p.sweepClock.period
      sweepDivider := if p.sweepDivider = 0 ∨ p.sweepReload = true then p.sweepPeriod
        else BitVec.ofNat 3 (p.sweepDivider.toNat - 1)
      sweepReload := false }

/-- R155, R200, R264: the envelope clock advances the envelopes of pulse 1, pulse 2 and noise by one envelope tick and
the triangle's linear counter, and writes nothing else. The linear counter is reloaded while its reload flag is set,
else counts down to 0, and the flag is cleared unless the control flag holds it. The algorithms are the spec's general
knowledge. -/
def Obligations.LinearCounterClock : Prop :=
  ∀ s : State,
    envelopeClock s = { s with
      p1 := { s.p1 with env := s.p1.env.clock }
      p2 := { s.p2 with env := s.p2.env.clock }
      tri := { s.tri with
        linear := if s.tri.linearReload = true then s.tri.reloadVal
          else if 0 < s.tri.linear.toNat then BitVec.ofNat 7 (s.tri.linear.toNat - 1) else 0
        linearReload := s.tri.linearReload && s.tri.control }
      noi := { s.noi with env := s.noi.env.clock } }

/-! ## Oscillators and the mixer -/

/-- R224, R382 (derived): each cycle an expired timer is reloaded with `2 * (period + 1) - 1` and the duty position
advances, else the timer counts down; so from an expired timer, `2 * (period + 1)` cycles advance the duty position by
exactly one step and leave the timer expired again. The rate is the spec's decision D20. -/
def Obligations.PulseDutyStepLastsTwicePeriodPlusOne : Prop :=
  ∀ p : Pulse,
    (∀ k, k ≤ p.timerCtr → Pulse.stepTimer^[k] p = { p with timerCtr := p.timerCtr - k }) ∧
    (p.timerCtr = 0 →
      p.stepTimer = { p with timerCtr := 2 * (p.period.toNat + 1) - 1, dutyPos := p.dutyPos + 1 } ∧
      Pulse.stepTimer^[2 * (p.period.toNat + 1)] p = { p with dutyPos := p.dutyPos + 1 })

/-- R265, R382 (derived): each cycle an expired timer is reloaded with `period` and the sequencer advances by one step
if the length and linear counters are both nonzero and is held otherwise, else the timer counts down; so from an
expired timer, `period + 1` cycles advance the sequencer by that one step, or hold it, and leave the timer expired
again. The rate and the gate are the spec's decision D20. -/
def Obligations.TriangleStepLastsPeriodPlusOne : Prop :=
  ∀ t : Triangle,
    (∀ k, k ≤ t.timerCtr → Triangle.stepTimer^[k] t = { t with timerCtr := t.timerCtr - k }) ∧
    (t.timerCtr = 0 →
      t.stepTimer = { t with
        timerCtr := t.period.toNat
        seqPos := if t.len.count ≠ 0 ∧ t.linear ≠ 0 then t.seqPos + 1 else t.seqPos } ∧
      Triangle.stepTimer^[t.period.toNat + 1] t =
        { t with seqPos := if t.len.count ≠ 0 ∧ t.linear ≠ 0 then t.seqPos + 1 else t.seqPos })

/-- R284, R285, R382 (derived; the taps and the period table are the spec's general knowledge): each cycle an expired
timer is reloaded with `NOISE_PERIOD[period_idx] - 1` and the register shifts once, right by one with the feedback at
bit 14, else the timer counts down; so from an expired timer, `NOISE_PERIOD[period_idx]` cycles shift the register once
and leave the timer expired again. Counting CPU cycles is the spec's decision D20, the table log entry 5. -/
def Obligations.NoiseShiftsOncePerPeriod : Prop :=
  ∀ n : Noise,
    (∀ k, k ≤ n.timerCtr → Noise.stepTimer^[k] n = { n with timerCtr := n.timerCtr - k }) ∧
    (n.timerCtr = 0 →
      ∃ r : BitVec 15,
        (∀ k, k < 14 → r.getLsbD k = n.lfsr.getLsbD (k + 1)) ∧
        r.getLsbD 14 = (n.lfsr.getLsbD 0 ^^ n.lfsr.getLsbD (if n.mode = .short then 6 else 1)) ∧
        n.stepTimer = { n with timerCtr := noisePeriod n.periodIdx - 1, lfsr := r } ∧
        Noise.stepTimer^[noisePeriod n.periodIdx] n = { n with lfsr := r })

/-- R229, R266, R286: the output levels: the gates of a pulse and of the noise channel, and the triangle's held level.
The mute, duty and bit-0 gates are the spec's general knowledge. The output tables are its defaults (log entry 5). -/
def Obligations.OutputLevelsAreGated : Prop :=
  (∀ p : Pulse, p.level =
    if p.len.count = 0 ∨ p.period.toNat < 8 ∨ 0x7FF < p.sweepTarget ∨ dutyBit p.duty p.dutyPos = false then 0
    else if p.env.constVol then p.env.vol else p.env.decay) ∧
  (∀ n : Noise, n.level =
    if n.len.count = 0 ∨ n.lfsr.getLsbD 0 = true then 0
    else if n.env.constVol then n.env.vol else n.env.decay) ∧
  (∀ t : Triangle, t.level = triangleLevel t.seqPos)

/-- R311, R312 (contiguity derived), R206: playing one cycle records the four output levels as they are and then steps
the four oscillators once, and writes nothing else; an empty window plays nothing; playing `[a, b)` and then `[b, c)` is
playing `[a, c)`, and adds one trace element per cycle. That a cycle's levels are recorded before its oscillators step
is the spec's decision D19, that the mixer receives one tuple of four levels per cycle D35. -/
def Obligations.PlayIsContiguous : Prop :=
  (∀ (a : Nat) (s : State), play a a s = s ∧
    play a (a + 1) s = { s with
      trace := s.trace ++ [⟨s.p1.level, s.p2.level, s.tri.level, s.noi.level⟩]
      p1 := s.p1.stepTimer
      p2 := s.p2.stepTimer
      tri := s.tri.stepTimer
      noi := s.noi.stepTimer }) ∧
  ∀ (a b c : Nat) (s : State), a ≤ b → b ≤ c →
    play b c (play a b s) = play a c s ∧ (play a b s).trace.length = s.trace.length + (b - a)

/-- R314, R315, R343: a transfer hands the sink one block of `BLOCK_LEN` samples, the resampled trace with the carry
held, empties the trace, keeps the new carry and moves the origin; it writes no channel field and reschedules by
`CLOCKS_NEEDED` of the new carry, raising `CycleOverflow` where that is above `2^64 - 1`. The resampler's form is the
spec's decisions D13 and D14 (its values are free, log entry 10), the fault D12. -/
def Obligations.TransferHandsOneBlockToTheSink : Prop :=
  ∀ (e : Nat) (s : State),
    (resampleBlock s.carry s.trace).length = Config.blockLen ∧
    transfer e s =
      if e + clocksNeeded (resampleCarry s.carry s.trace) ≤ maxCycle then
        .ok { s with
          sink := s.sink ++ [⟨e, resampleBlock s.carry s.trace⟩]
          trace := []
          carry := resampleCarry s.carry s.trace
          lastFrameCyc := e
          nextTransferCyc := e + clocksNeeded (resampleCarry s.carry s.trace) }
      else .error { s with
        sink := s.sink ++ [⟨e, resampleBlock s.carry s.trace⟩]
        trace := []
        carry := resampleCarry s.carry s.trace
        lastFrameCyc := e
        fault := some .cycleOverflow
        faultInfo := some (e + clocksNeeded (resampleCarry s.carry s.trace)) }

/-! ## RUN, RD_STATUS and QRY -/

/-- R141 (`t = global_cyc` in the source; `t < global_cyc` is the spec's decision D8): `run_to` of a cycle not ahead
changes nothing and returns `None`. -/
def Obligations.RunNotAheadIsANoOp : Prop :=
  ∀ (t : OperandWord) (s : State), s.fault = none → t.toNat ≤ s.globalCyc →
    exec (.run t) s = .next { s with results := s.results ++ [.interrupt none] }

/-- R140, R143: where no event is due up to the target, `run_to` plays the window and moves the clock, and returns
`None`. The order within a cycle is the spec's decision D19. -/
def Obligations.RunWithNoEventDuePlaysTheWindow : Prop :=
  ∀ (t : OperandWord) (s : State), s.fault = none → s.globalCyc < t.toNat → t.toNat < s.nextTickCyc →
    t.toNat < s.nextTransferCyc → (∀ pc v, s.pending = some (pc, v) → t.toNat < pc) →
    exec (.run t) s = .next { play s.globalCyc t.toNat s with
      globalCyc := t.toNat
      results := s.results ++ [.interrupt none] }

/-- R140, R143, R144, R148, R160, R142, R340: `run_to` of a cycle that no scheduled event comes before plays the window
up to it and performs the events due there, in the order tick, transfer, resolution of a pending `$17` write, each on
the state the one before left; its result is what the tick raised. A fault in one of them ends it there, before the
clock moves. The order of the events is the spec's decision D4, the order within a cycle D19, the result's form D22,
the fault mark D11; that a faulted `run_to` returns nothing is log entry 12. -/
def Obligations.RunToTheNextTickPerformsIt : Prop :=
  ∀ (t : OperandWord) (s : State), s.fault = none → s.globalCyc < t.toNat → t.toNat ≤ s.nextTickCyc →
    t.toNat ≤ s.nextTransferCyc → (∀ pc v, s.pending = some (pc, v) → t.toNat ≤ pc) →
    exec (.run t) s =
      match
        if t.toNat = s.nextTickCyc then tickEvent t.toNat (play s.globalCyc t.toNat s)
        else .ok (play s.globalCyc t.toNat s, none) with
      | .error u => .next { u with results := s.results ++ [.nothing] }
      | .ok (u1, irq) =>
        match if t.toNat = s.nextTransferCyc then transfer t.toNat u1 else .ok u1 with
        | .error u => .next { u with results := s.results ++ [.nothing] }
        | .ok u2 =>
          match
            match s.pending with
            | some (pc, v) => if pc = t.toNat then applyFrame v t.toNat { u2 with pending := none } else .ok u2
            | none => .ok u2 with
          | .error u => .next { u with results := s.results ++ [.nothing] }
          | .ok u3 => .next { u3 with globalCyc := t.toNat, results := s.results ++ [.interrupt irq] }

/-- R159, R160, R343: applying a `$17` write at a cycle sets the mode and the suppress flag, resets the step counter,
schedules slot 0 of the mode, clears the sticky flag with bit 6 and clocks everything once with bit 7; where slot 0
would be above `2^64 - 1` it raises `CycleOverflow` after the step counter's reset. `run_to` of exactly the cycle of a
pending `$17` write, with no other event due by then, plays the window and does that there, with either value of bit 7
(two events at one cycle: the statement before). The immediate clock of every bit-7 write is the spec's decision D7,
the second clear of the flag D6, the fault D12; that a faulted `run_to` returns nothing is log entry 12. -/
def Obligations.RunToThePendingCycleAppliesIt : Prop :=
  (∀ (v : Byte) (e : Nat) (s : State),
    (v.getLsbD 7 = false → applyFrame v e s =
      if e + 7459 ≤ maxCycle then
        .ok { s with
          mode := .fourStep
          suppress := v.getLsbD 6
          tick := 0
          nextTickCyc := e + 7459
          irqFlag := if v.getLsbD 6 then false else s.irqFlag }
      else .error { s with
        mode := .fourStep
        suppress := v.getLsbD 6
        tick := 0
        fault := some .cycleOverflow
        faultInfo := some (e + 7459) }) ∧
    (v.getLsbD 7 = true → applyFrame v e s =
      if e + tickDelta .fiveStep 0 ≤ maxCycle then
        .ok { lengthClock (envelopeClock s) with
          mode := .fiveStep
          suppress := v.getLsbD 6
          tick := 0
          nextTickCyc := e + tickDelta .fiveStep 0
          irqFlag := if v.getLsbD 6 then false else s.irqFlag }
      else .error { s with
        mode := .fiveStep
        suppress := v.getLsbD 6
        tick := 0
        fault := some .cycleOverflow
        faultInfo := some (e + tickDelta .fiveStep 0) })) ∧
  ∀ (t : OperandWord) (v : Byte) (s : State), s.fault = none → s.globalCyc < t.toNat →
    s.pending = some (t.toNat, v) → t.toNat < s.nextTickCyc → t.toNat < s.nextTransferCyc →
    (v.getLsbD 7 = false → exec (.run t) s = .next
      (if t.toNat + 7459 ≤ maxCycle then
        { play s.globalCyc t.toNat s with
          globalCyc := t.toNat
          mode := .fourStep
          suppress := v.getLsbD 6
          tick := 0
          nextTickCyc := t.toNat + 7459
          pending := none
          irqFlag := if v.getLsbD 6 then false else s.irqFlag
          results := s.results ++ [.interrupt none] }
      else
        { play s.globalCyc t.toNat s with
          mode := .fourStep
          suppress := v.getLsbD 6
          tick := 0
          pending := none
          fault := some .cycleOverflow
          faultInfo := some (t.toNat + 7459)
          results := s.results ++ [.nothing] })) ∧
    (v.getLsbD 7 = true → exec (.run t) s = .next
      (if t.toNat + tickDelta .fiveStep 0 ≤ maxCycle then
        { lengthClock (envelopeClock (play s.globalCyc t.toNat s)) with
          globalCyc := t.toNat
          mode := .fiveStep
          suppress := v.getLsbD 6
          tick := 0
          nextTickCyc := t.toNat + tickDelta .fiveStep 0
          pending := none
          irqFlag := if v.getLsbD 6 then false else s.irqFlag
          results := s.results ++ [.interrupt none] }
      else
        { play s.globalCyc t.toNat s with
          mode := .fiveStep
          suppress := v.getLsbD 6
          tick := 0
          pending := none
          fault := some .cycleOverflow
          faultInfo := some (t.toNat + tickDelta .fiveStep 0)
          results := s.results ++ [.nothing] }))

/-- R147, R385, R343: in every state whose schedule is ahead of its clock, `run_to` ends: it reaches its target with
every scheduled cycle past it, unless a reschedule raised `CycleOverflow`. Derived in the spec; the fault is its
decision D12. -/
def Obligations.RunReachesItsTarget : Prop :=
  ∀ (t : OperandWord) (s : State), s.fault = none → Scheduled s →
    ∃ u, exec (.run t) s = .next u ∧
      ((u.fault = none ∧ u.globalCyc = max s.globalCyc t.toNat ∧ Scheduled u) ∨ u.fault = some .cycleOverflow)

/-- R146: catch-up is associative: where `run_to(t2)` raises no fault, `run_to(t1)` and then `run_to(t2)` give the
identical final state, and their interrupt results OR to the single call's. The list of operation results is set
aside, since two calls return two results. The OR clause is derived in the spec. -/
def Obligations.RunIsAssociative : Prop :=
  ∀ (t1 t2 : OperandWord) (s u : State), s.fault = none → Scheduled s → s.globalCyc ≤ t1.toNat →
    t1.toNat ≤ t2.toNat → exec (.run t2) s = .next u → u.fault = none →
    ∃ u1 u2 r1 r2, exec (.run t1) s = .next u1 ∧ exec (.run t2) u1 = .next u2 ∧
      withoutResults u2 = withoutResults u ∧
      u2.results = s.results ++ [.interrupt r1, .interrupt r2] ∧ u.results = s.results ++ [.interrupt (orIrq r1 r2)]

/-- R165: `read_status(c)` runs to `c - 1` (0 for `c = 0`, R166), samples the status byte, clears the sticky flag, runs
to `c`, and returns the OR of the two interrupts with the byte; a fault in either span ends it (R340). The `runTo` of
the two spans is the operation RUN performs (R140), whose result is its interrupt (R142); the OR of two interrupts is
one if either is (R24). The saturation is the spec's
decision D8, the fault mark D11, the form of an interrupt result D22; that a faulted operation returns nothing is log
entry 12. -/
def Obligations.StatusReadRunsInTwoPhases : Prop :=
  (∀ i1 i2 : Option Interrupt, orIrq i1 i2 = if i1 = some .frame ∨ i2 = some .frame then some .frame else none) ∧
  ∀ (c : OperandWord) (s : State), s.fault = none →
    (exec (.run c) s =
      match runTo c.toNat s with
      | .error u => .next { u with results := u.results ++ [.nothing] }
      | .ok (u, irq) => .next { u with results := u.results ++ [.interrupt irq] }) ∧
    exec (.rdStatus c) s =
      match runTo (c.toNat - 1) s with
      | .error u => .next { u with results := u.results ++ [.nothing] }
      | .ok (s1, i1) =>
        match runTo c.toNat { s1 with irqFlag := false } with
        | .error u => .next { u with results := u.results ++ [.nothing] }
        | .ok (s2, i2) => .next { s2 with results := s2.results ++ [.status (orIrq i1 i2) (statusByte s1)] }

/-- R166: `read_status(c)` with `c` not ahead of the clock samples the current state, and still clears the sticky
flag. Derived in the spec, and its decision D8. -/
def Obligations.StatusReadNotAheadSamplesAndClears : Prop :=
  ∀ (c : OperandWord) (s : State), s.fault = none → c.toNat ≤ s.globalCyc →
    exec (.rdStatus c) s = .next { s with
      irqFlag := false
      results := s.results ++ [.status none (statusByte s)] }

/-- R165, R377, R151, R340, R343: `read_status(c)` of the next tick's own cycle, where that tick is an unsuppressed
mode-0 step 4 and nothing else is due by then. Where the tick's reschedule is a 64-bit cycle, the byte, sampled before the tick,
shows the sticky flag as it was, the returned interrupt is `Some`, and the flag is set again after the clear; else the
tick raises `CycleOverflow` and the read returns nothing. The slot of the reschedule is the spec's decision D2 (log
entry 18), the fault D12, its mark D11; that a faulted read returns nothing is log entry 12. -/
def Obligations.StatusReadAtTheRaiseKeepsTheFlag : Prop :=
  ∀ (c : OperandWord) (s : State), s.fault = none → s.globalCyc < c.toNat → c.toNat = s.nextTickCyc →
    c.toNat < s.nextTransferCyc → s.pending = none → s.mode = .fourStep → s.tick = 3 → s.suppress = false →
    ∃ u, exec (.rdStatus c) s = .next u ∧
      if c.toNat + tickDelta .fourStep 4 ≤ maxCycle then
        u.fault = none ∧ u.irqFlag = true ∧ u.globalCyc = c.toNat ∧ u.tick = 0 ∧
          u.nextTickCyc = c.toNat + tickDelta .fourStep 4 ∧
          u.results = s.results ++ [.status (some .frame) (statusByte s)]
      else
        u.fault = some .cycleOverflow ∧ u.irqFlag = false ∧ u.tick = 4 ∧ u.results = s.results ++ [.nothing]

/-- R167, R136: the status byte is one bit per channel's active counter, the sticky flag in bit 6, and zeros. -/
def Obligations.StatusByteBits : Prop :=
  ∀ s : State,
    (statusByte s).getLsbD 0 = decide (s.p1.len.count ≠ 0) ∧ (statusByte s).getLsbD 1 = decide (s.p2.len.count ≠ 0) ∧
    (statusByte s).getLsbD 2 = decide (s.tri.len.count ≠ 0) ∧ (statusByte s).getLsbD 3 = decide (s.noi.len.count ≠ 0) ∧
    (statusByte s).getLsbD 4 = false ∧ (statusByte s).getLsbD 5 = false ∧ (statusByte s).getLsbD 6 = s.irqFlag ∧
    (statusByte s).getLsbD 7 = false

/-- R163: `requested_run_cycle()` (word `0xC000`) returns the next tick's cycle, 7459 at power-on, and writes no
state. That it returns no other cycle is the spec's decision D30, the power-on value D16, the word D1; the word's low
byte coming first in the stream is the model's choice (log entry 1). -/
def Obligations.QueryReturnsTheNextTick : Prop :=
  (∀ rest : List Byte, decode (0x00 :: 0xC0 :: rest) = .instr .qry rest) ∧
  (∀ s : State, s.fault = none → exec .qry s = .next { s with results := s.results ++ [.cycle s.nextTickCyc] }) ∧
  exec .qry State.reset = .next { State.reset with results := [.cycle 7459] }

/-! ## Whole-machine rules -/

/-- R169, R170 (derived): every register write returns nothing, raises no interrupt, plays no cycle, calls the sink
with nothing and moves no clock. -/
def Obligations.WritesReturnNothingAndMoveNoClock : Prop :=
  ∀ (i : Instr) (s : State), isWrite i = true → s.fault = none →
    ∃ u, exec i s = .next u ∧ u.results = s.results ++ [.nothing] ∧ u.globalCyc = s.globalCyc ∧
      u.nextTransferCyc = s.nextTransferCyc ∧ u.lastFrameCyc = s.lastFrameCyc ∧ u.trace = s.trace ∧
      u.carry = s.carry ∧ u.sink = s.sink ∧ u.queue = s.queue

/-- R85, R89 and the writers named in spec/10_state.md: `run_to` and the status read never write a field only a
register write writes, nor the host's stream (their frame). -/
def Obligations.RunAndStatusReadFrame : Prop :=
  ∀ (i : Instr) (s u : State), (∃ t, i = .run t) ∨ (∃ c, i = .rdStatus c) → exec i s = .next u →
    u.queue = s.queue ∧
    u.p1.len.enabled = s.p1.len.enabled ∧ u.p2.len.enabled = s.p2.len.enabled ∧
    u.tri.len.enabled = s.tri.len.enabled ∧ u.noi.len.enabled = s.noi.len.enabled ∧
    u.p1.duty = s.p1.duty ∧ u.p1.env.halt = s.p1.env.halt ∧ u.p1.env.constVol = s.p1.env.constVol ∧
    u.p1.env.vol = s.p1.env.vol ∧ u.p1.sweepEn = s.p1.sweepEn ∧ u.p1.sweepPeriod = s.p1.sweepPeriod ∧
    u.p1.negate = s.p1.negate ∧ u.p1.shift = s.p1.shift ∧ u.p1.isSecond = s.p1.isSecond ∧
    u.p2.duty = s.p2.duty ∧ u.p2.env.halt = s.p2.env.halt ∧ u.p2.env.constVol = s.p2.env.constVol ∧
    u.p2.env.vol = s.p2.env.vol ∧ u.p2.sweepEn = s.p2.sweepEn ∧ u.p2.sweepPeriod = s.p2.sweepPeriod ∧
    u.p2.negate = s.p2.negate ∧ u.p2.shift = s.p2.shift ∧ u.p2.isSecond = s.p2.isSecond ∧
    u.tri.control = s.tri.control ∧ u.tri.reloadVal = s.tri.reloadVal ∧ u.tri.period = s.tri.period ∧
    u.noi.env.halt = s.noi.env.halt ∧ u.noi.env.constVol = s.noi.env.constVol ∧ u.noi.env.vol = s.noi.env.vol ∧
    u.noi.mode = s.noi.mode ∧ u.noi.periodIdx = s.noi.periodIdx

/-- R340 (the spec's decision D11): on a faulted state every operation changes nothing; it adds one result to what the
host observes, and that is nothing or `None`. Which of the two an operation returns is log entry 12. -/
def Obligations.FaultedStateNeverChanges : Prop :=
  ∀ (i : Instr) (s : State), s.fault.isSome = true →
    ∃ r, (r = .nothing ∨ r = .interrupt none) ∧ exec i s = .next { s with results := s.results ++ [r] }

/-- R346, R385: every operation is total: it ends, in a next state, with exactly one result more, and the only fault
an instruction of the table can raise is `CycleOverflow`. The fault is the spec's decision D12. -/
def Obligations.EveryOperationEnds : Prop :=
  ∀ (i : Instr) (s : State), ∃ u r, exec i s = .next u ∧ u.results = s.results ++ [r] ∧
    (u.fault = s.fault ∨ u.fault = some .cycleOverflow)

/-- R349 (derived): the sticky flag, once set, is cleared only by a status read, by a `$17` write with bit 6 set at
its issue, or by a `run_to` that applies a pending `$17` write with bit 6 set. -/
def Obligations.OnlyThreeThingsClearTheFlag : Prop :=
  ∀ (i : Instr) (s u : State), exec i s = .next u → s.irqFlag = true → u.irqFlag = false →
    (∃ c, i = .rdStatus c) ∨ (∃ v, i = .wrFrame v ∧ v.getLsbD 6 = true) ∨
      (∃ t pc v, i = .run t ∧ s.pending = some (pc, v) ∧ v.getLsbD 6 = true)

/-- R347, R348, R153: a register write and the query never set the sticky flag; and with no `$17` write pending, in a
state whose mode is the 5-step mode or whose interrupt is suppressed, no operation sets it or returns an interrupt. -/
def Obligations.MaskedSequencerRaisesNothing : Prop :=
  ∀ (i : Instr) (s u : State), exec i s = .next u →
    (isWrite i = true ∨ i = .qry → s.irqFlag = false → u.irqFlag = false) ∧
    (s.pending = none → s.mode = .fiveStep ∨ s.suppress = true →
      (s.irqFlag = false → u.irqFlag = false) ∧
      ∀ r, u.results = s.results ++ [r] → r ≠ .interrupt (some .frame) ∧ ∀ b, r ≠ .status (some .frame) b)

/-- R31 ("Monotonic, never rewound"): no step moves the clock back, from any state whose schedule is ahead of it. -/
def Obligations.ClockIsNeverRewound : Prop :=
  ∀ s u : State, Scheduled s → step s = .next u → s.globalCyc ≤ u.globalCyc

/-! ## Invariants -/

/-- R147: every step keeps every scheduled cycle strictly after the clock. -/
def Obligations.StepKeepsTheScheduleAhead : Prop :=
  ∀ s u : State, Scheduled s → step s = .next u → Scheduled u

/-- R84, with R147 as premise: every step keeps the trace at one element per cycle since the last transfer. -/
def Obligations.StepKeepsTheTraceInStep : Prop :=
  ∀ s u : State, Scheduled s → TraceCovers s → step s = .next u → TraceCovers u

/-- R7, R34, R53, R55, R67, R76, R77, R197: every step keeps each field in its range. The noise timer's bound is that of
the default `NOISE_PERIOD` table (log entry 5, PRESUMED), and a disabled channel's counter is 0 under the default of
R18 only (log entry 6, PRESUMED). -/
def Obligations.StepKeepsTheRanges : Prop :=
  ∀ s u : State, CyclesFit s → StepInRange s → TimersInRange s → ConstantsHold s → LfsrAlive s → DisabledInactive s →
    step s = .next u →
    CyclesFit u ∧ StepInRange u ∧ TimersInRange u ∧ ConstantsHold u ∧ LfsrAlive u ∧ DisabledInactive u

/-- R160, R162, with R147 as premise: every step keeps a pending write due at the very next cycle, an even one. -/
def Obligations.StepKeepsThePendingWriteNext : Prop :=
  ∀ s u : State, Scheduled s → PendingNext s → step s = .next u → PendingNext u

/-- The power-on state meets every invariant stated above. -/
def Obligations.PowerOnMeetsTheInvariants : Prop :=
  Scheduled State.reset ∧ CyclesFit State.reset ∧ TraceCovers State.reset ∧ StepInRange State.reset ∧
    TimersInRange State.reset ∧ ConstantsHold State.reset ∧ LfsrAlive State.reset ∧ DisabledInactive State.reset ∧
    PendingNext State.reset
end

