-- ==== Sys2Proof/Laws/Decode.lean ====
section
/-! SUPPORT. Lemmas of the decoder and encoder: the bytes of words and operands, the fields of a write word, and what
the decoder reads from each. -/

namespace Sys2Proof

theorem toNat_append_eq {m n : Nat} (x : BitVec m) (y : BitVec n) : (x ++ y).toNat = x.toNat * 2 ^ n + y.toNat := by
  rw [BitVec.toNat_append, Nat.shiftLeft_eq, Nat.mul_comm, Nat.two_pow_add_eq_or_of_lt y.isLt]

theorem toNat_extract {w : Nat} (x : BitVec w) (a n : Nat) : (x.extractLsb' a n).toNat = x.toNat / 2 ^ a % 2 ^ n := by
  rw [BitVec.extractLsb'_toNat, Nat.shiftRight_eq_div_pow]

theorem word_of_bytes (w : CmdWord) : w.extractLsb' 8 8 ++ w.extractLsb' 0 8 = w := by
  apply BitVec.eq_of_toNat_eq
  rw [toNat_append_eq, toNat_extract, toNat_extract]
  omega

theorem wordBytes_of_bytes (lo hi : Byte) : wordBytes (hi ++ lo) = [lo, hi] := by
  have hw : (hi ++ lo : CmdWord).toNat = hi.toNat * 2 ^ 8 + lo.toNat := toNat_append_eq _ _
  have e (x y : Byte) (h : x.toNat = y.toNat) : x = y := BitVec.eq_of_toNat_eq h
  simp only [wordBytes, List.cons.injEq, and_true]
  exact ⟨e _ _ (by rw [toNat_extract, hw]; omega), e _ _ (by rw [toNat_extract, hw]; omega)⟩

theorem takeOperand_operandBytes (x : OperandWord) (rest : List Byte) :
    takeOperand (operandBytes x ++ rest) = some (x, rest) := by
  simp only [operandBytes, takeOperand, List.cons_append, List.nil_append, Option.some.injEq, Prod.mk.injEq, and_true]
  apply BitVec.eq_of_toNat_eq
  iterate 7 rw [toNat_append_eq]
  simp only [toNat_extract]
  omega

theorem operandBytes_of_takeOperand {bs rest : List Byte} {x : OperandWord} (h : takeOperand bs = some (x, rest)) :
    bs = operandBytes x ++ rest := by
  unfold takeOperand at h
  split at h
  · rename_i b0 b1 b2 b3 b4 b5 b6 b7 r
    simp only [Option.some.injEq, Prod.mk.injEq] at h
    obtain ⟨hx, rfl⟩ := h
    have hn := congrArg BitVec.toNat hx
    iterate 7 rw [toNat_append_eq] at hn
    have e (y : Byte) (k : Nat) (h : y.toNat = x.toNat / 2 ^ k % 2 ^ 8) : y = x.extractLsb' k 8 :=
      BitVec.eq_of_toNat_eq (by rw [toNat_extract, h])
    have := b0.isLt; have := b1.isLt; have := b2.isLt; have := b3.isLt
    have := b4.isLt; have := b5.isLt; have := b6.isLt; have := b7.isLt
    simp only [operandBytes, List.cons_append, List.nil_append, List.cons.injEq, and_true]
    exact ⟨e _ _ (by omega), e _ _ (by omega), e _ _ (by omega), e _ _ (by omega),
      e _ _ (by omega), e _ _ (by omega), e _ _ (by omega), e _ _ (by omega)⟩
  · cases h

theorem toNat_writeWord (a : Offset) (v : Byte) : (writeWord a v).toNat = a.toNat * 256 + v.toNat := by
  refine (toNat_append_eq _ _).trans ?_
  rw [toNat_append_eq]; simp

@[simp] theorem kindOf_writeWord (a : Offset) (v : Byte) : kindOf (writeWord a v) = .write := by
  have h : ((writeWord a v).extractLsb' 14 2).toNat = 0 := by
    rw [toNat_extract, toNat_writeWord]; have := a.isLt; have := v.isLt; omega
  simp [kindOf, h]

@[simp] theorem offsetOf_writeWord (a : Offset) (v : Byte) : offsetOf (writeWord a v) = a := by
  apply BitVec.eq_of_toNat_eq
  rw [offsetOf, toNat_extract, toNat_writeWord]; have := a.isLt; have := v.isLt; omega

@[simp] theorem dataOf_writeWord (a : Offset) (v : Byte) : dataOf (writeWord a v) = v := by
  apply BitVec.eq_of_toNat_eq
  rw [dataOf, toNat_extract, toNat_writeWord]; have := a.isLt; have := v.isLt; omega

theorem bit13_writeWord (a : Offset) (v : Byte) : (writeWord a v).getLsbD 13 = false := by
  rw [BitVec.getLsbD, toNat_writeWord, Nat.testBit_eq_decide_div_mod_eq]
  have := a.isLt; have := v.isLt
  simp; omega

@[simp] theorem illegalReason_writeWord (a : Offset) (v : Byte) : illegalReason (writeWord a v) = none := by
  simp only [illegalReason, bit13_writeWord, kindOf_writeWord]
  rfl

theorem decode_wordBytes (w : CmdWord) (rest : List Byte) :
    decode (wordBytes w ++ rest) =
      match illegalReason w with
      | some r => .illegal r
      | none => decodeAfter w rest := by
  show decode (w.extractLsb' 0 8 :: w.extractLsb' 8 8 :: rest) = _
  rw [decode, word_of_bytes] <;> rfl

theorem decode_write (a : Offset) (v : Byte) (rest : List Byte) :
    decode (wordBytes (writeWord a v) ++ rest) =
      match decodeWrite a v with
      | some i => .instr i rest
      | none => .writeOutside a rest := by
  rw [decode_wordBytes]
  simp only [illegalReason_writeWord, decodeAfter, kindOf_writeWord, offsetOf_writeWord, dataOf_writeWord] <;> rfl

theorem writeWord_fields (w : CmdWord) (hk : kindOf w = .write) (hz : w.getLsbD 13 = false) :
    writeWord (offsetOf w) (dataOf w) = w := by
  apply BitVec.eq_of_toNat_eq
  rw [toNat_writeWord, offsetOf, dataOf, toNat_extract, toNat_extract]
  have h14 : w.toNat / 2 ^ 14 % 4 = 0 := by
    have : (w.extractLsb' 14 2).toNat = 0 := by
      unfold kindOf at hk; split at hk <;> simp_all
    rwa [toNat_extract] at this
  rw [BitVec.getLsbD, Nat.testBit_eq_decide_div_mod_eq] at hz
  have := w.isLt
  simp at hz
  omega

theorem decodeWrite_some {a : Offset} {v : Byte} {i : Instr} (h : decodeWrite a v = some i) :
    i.word = writeWord a v ∧ i.operand = none := by
  unfold decodeWrite at h
  have ha : a = BitVec.ofNat 5 a.toNat := by simp
  split at h <;> simp only [Option.some.injEq, reduceCtorEq] at h <;> subst h <;> rename_i e <;>
    (rw [ha, e]; exact ⟨rfl, rfl⟩)

theorem kind_bits (w : CmdWord) : (kindOf w = .read → w.toNat / 2 ^ 14 % 4 = 1) := by
  intro h
  have : (w.extractLsb' 14 2).toNat = w.toNat / 2 ^ 14 % 4 := toNat_extract _ _ _
  rw [← this]
  unfold kindOf at h; split at h <;> simp_all

theorem read_word_eq (w : CmdWord) (hk : kindOf w = .read) (hz : w.getLsbD 13 = false) (ha : offsetOf w = 0x15)
    (hd : dataOf w = 0) : w = 0x5500 := by
  apply BitVec.eq_of_toNat_eq
  have h1 := congrArg BitVec.toNat ha
  have h2 := congrArg BitVec.toNat hd
  rw [offsetOf, toNat_extract] at h1
  rw [dataOf, toNat_extract] at h2
  rw [BitVec.getLsbD, Nat.testBit_eq_decide_div_mod_eq] at hz
  have := w.isLt
  have := kind_bits w hk
  simp at *
  omega

end Sys2Proof
end

