-- ==== Sys2Proof/Laws/State.lean ====
section
/-! SUPPORT. The named updates of State, one lemma per field each, all true by rfl: no later proof unfolds a record
update. -/

namespace Sys2Proof.Machine

@[simp] theorem raiseFault_globalCyc (k : Fault) (n : Nat) (s : State) : (raiseFault k n s).globalCyc = s.globalCyc := rfl
@[simp] theorem raiseFault_mode (k : Fault) (n : Nat) (s : State) : (raiseFault k n s).mode = s.mode := rfl
@[simp] theorem raiseFault_suppress (k : Fault) (n : Nat) (s : State) : (raiseFault k n s).suppress = s.suppress := rfl
@[simp] theorem raiseFault_tick (k : Fault) (n : Nat) (s : State) : (raiseFault k n s).tick = s.tick := rfl
@[simp] theorem raiseFault_nextTickCyc (k : Fault) (n : Nat) (s : State) : (raiseFault k n s).nextTickCyc = s.nextTickCyc := rfl
@[simp] theorem raiseFault_nextTransferCyc (k : Fault) (n : Nat) (s : State) : (raiseFault k n s).nextTransferCyc = s.nextTransferCyc := rfl
@[simp] theorem raiseFault_lastFrameCyc (k : Fault) (n : Nat) (s : State) : (raiseFault k n s).lastFrameCyc = s.lastFrameCyc := rfl
@[simp] theorem raiseFault_pending (k : Fault) (n : Nat) (s : State) : (raiseFault k n s).pending = s.pending := rfl
@[simp] theorem raiseFault_irqFlag (k : Fault) (n : Nat) (s : State) : (raiseFault k n s).irqFlag = s.irqFlag := rfl
@[simp] theorem raiseFault_fault (k : Fault) (n : Nat) (s : State) : (raiseFault k n s).fault = some k := rfl
@[simp] theorem raiseFault_p1 (k : Fault) (n : Nat) (s : State) : (raiseFault k n s).p1 = s.p1 := rfl
@[simp] theorem raiseFault_p2 (k : Fault) (n : Nat) (s : State) : (raiseFault k n s).p2 = s.p2 := rfl
@[simp] theorem raiseFault_tri (k : Fault) (n : Nat) (s : State) : (raiseFault k n s).tri = s.tri := rfl
@[simp] theorem raiseFault_noi (k : Fault) (n : Nat) (s : State) : (raiseFault k n s).noi = s.noi := rfl
@[simp] theorem raiseFault_carry (k : Fault) (n : Nat) (s : State) : (raiseFault k n s).carry = s.carry := rfl
@[simp] theorem raiseFault_trace (k : Fault) (n : Nat) (s : State) : (raiseFault k n s).trace = s.trace := rfl
@[simp] theorem raiseFault_faultInfo (k : Fault) (n : Nat) (s : State) : (raiseFault k n s).faultInfo = some n := rfl
@[simp] theorem raiseFault_results (k : Fault) (n : Nat) (s : State) : (raiseFault k n s).results = s.results := rfl
@[simp] theorem raiseFault_sink (k : Fault) (n : Nat) (s : State) : (raiseFault k n s).sink = s.sink := rfl
@[simp] theorem raiseFault_queue (k : Fault) (n : Nat) (s : State) : (raiseFault k n s).queue = s.queue := rfl

@[simp] theorem logResult_globalCyc (r : OpResult) (s : State) : (logResult r s).globalCyc = s.globalCyc := rfl
@[simp] theorem logResult_mode (r : OpResult) (s : State) : (logResult r s).mode = s.mode := rfl
@[simp] theorem logResult_suppress (r : OpResult) (s : State) : (logResult r s).suppress = s.suppress := rfl
@[simp] theorem logResult_tick (r : OpResult) (s : State) : (logResult r s).tick = s.tick := rfl
@[simp] theorem logResult_nextTickCyc (r : OpResult) (s : State) : (logResult r s).nextTickCyc = s.nextTickCyc := rfl
@[simp] theorem logResult_nextTransferCyc (r : OpResult) (s : State) : (logResult r s).nextTransferCyc = s.nextTransferCyc := rfl
@[simp] theorem logResult_lastFrameCyc (r : OpResult) (s : State) : (logResult r s).lastFrameCyc = s.lastFrameCyc := rfl
@[simp] theorem logResult_pending (r : OpResult) (s : State) : (logResult r s).pending = s.pending := rfl
@[simp] theorem logResult_irqFlag (r : OpResult) (s : State) : (logResult r s).irqFlag = s.irqFlag := rfl
@[simp] theorem logResult_fault (r : OpResult) (s : State) : (logResult r s).fault = s.fault := rfl
@[simp] theorem logResult_p1 (r : OpResult) (s : State) : (logResult r s).p1 = s.p1 := rfl
@[simp] theorem logResult_p2 (r : OpResult) (s : State) : (logResult r s).p2 = s.p2 := rfl
@[simp] theorem logResult_tri (r : OpResult) (s : State) : (logResult r s).tri = s.tri := rfl
@[simp] theorem logResult_noi (r : OpResult) (s : State) : (logResult r s).noi = s.noi := rfl
@[simp] theorem logResult_carry (r : OpResult) (s : State) : (logResult r s).carry = s.carry := rfl
@[simp] theorem logResult_trace (r : OpResult) (s : State) : (logResult r s).trace = s.trace := rfl
@[simp] theorem logResult_faultInfo (r : OpResult) (s : State) : (logResult r s).faultInfo = s.faultInfo := rfl
@[simp] theorem logResult_results (r : OpResult) (s : State) : (logResult r s).results = s.results ++ [r] := rfl
@[simp] theorem logResult_sink (r : OpResult) (s : State) : (logResult r s).sink = s.sink := rfl
@[simp] theorem logResult_queue (r : OpResult) (s : State) : (logResult r s).queue = s.queue := rfl

@[simp] theorem clearIrq_globalCyc (s : State) : (clearIrq s).globalCyc = s.globalCyc := rfl
@[simp] theorem clearIrq_mode (s : State) : (clearIrq s).mode = s.mode := rfl
@[simp] theorem clearIrq_suppress (s : State) : (clearIrq s).suppress = s.suppress := rfl
@[simp] theorem clearIrq_tick (s : State) : (clearIrq s).tick = s.tick := rfl
@[simp] theorem clearIrq_nextTickCyc (s : State) : (clearIrq s).nextTickCyc = s.nextTickCyc := rfl
@[simp] theorem clearIrq_nextTransferCyc (s : State) : (clearIrq s).nextTransferCyc = s.nextTransferCyc := rfl
@[simp] theorem clearIrq_lastFrameCyc (s : State) : (clearIrq s).lastFrameCyc = s.lastFrameCyc := rfl
@[simp] theorem clearIrq_pending (s : State) : (clearIrq s).pending = s.pending := rfl
@[simp] theorem clearIrq_irqFlag (s : State) : (clearIrq s).irqFlag = false := rfl
@[simp] theorem clearIrq_fault (s : State) : (clearIrq s).fault = s.fault := rfl
@[simp] theorem clearIrq_p1 (s : State) : (clearIrq s).p1 = s.p1 := rfl
@[simp] theorem clearIrq_p2 (s : State) : (clearIrq s).p2 = s.p2 := rfl
@[simp] theorem clearIrq_tri (s : State) : (clearIrq s).tri = s.tri := rfl
@[simp] theorem clearIrq_noi (s : State) : (clearIrq s).noi = s.noi := rfl
@[simp] theorem clearIrq_carry (s : State) : (clearIrq s).carry = s.carry := rfl
@[simp] theorem clearIrq_trace (s : State) : (clearIrq s).trace = s.trace := rfl
@[simp] theorem clearIrq_faultInfo (s : State) : (clearIrq s).faultInfo = s.faultInfo := rfl
@[simp] theorem clearIrq_results (s : State) : (clearIrq s).results = s.results := rfl
@[simp] theorem clearIrq_sink (s : State) : (clearIrq s).sink = s.sink := rfl
@[simp] theorem clearIrq_queue (s : State) : (clearIrq s).queue = s.queue := rfl

@[simp] theorem wrapTick_globalCyc (s : State) : (wrapTick s).globalCyc = s.globalCyc := rfl
@[simp] theorem wrapTick_mode (s : State) : (wrapTick s).mode = s.mode := rfl
@[simp] theorem wrapTick_suppress (s : State) : (wrapTick s).suppress = s.suppress := rfl
@[simp] theorem wrapTick_tick (s : State) : (wrapTick s).tick = 0 := rfl
@[simp] theorem wrapTick_nextTickCyc (s : State) : (wrapTick s).nextTickCyc = s.nextTickCyc := rfl
@[simp] theorem wrapTick_nextTransferCyc (s : State) : (wrapTick s).nextTransferCyc = s.nextTransferCyc := rfl
@[simp] theorem wrapTick_lastFrameCyc (s : State) : (wrapTick s).lastFrameCyc = s.lastFrameCyc := rfl
@[simp] theorem wrapTick_pending (s : State) : (wrapTick s).pending = s.pending := rfl
@[simp] theorem wrapTick_irqFlag (s : State) : (wrapTick s).irqFlag = s.irqFlag := rfl
@[simp] theorem wrapTick_fault (s : State) : (wrapTick s).fault = s.fault := rfl
@[simp] theorem wrapTick_p1 (s : State) : (wrapTick s).p1 = s.p1 := rfl
@[simp] theorem wrapTick_p2 (s : State) : (wrapTick s).p2 = s.p2 := rfl
@[simp] theorem wrapTick_tri (s : State) : (wrapTick s).tri = s.tri := rfl
@[simp] theorem wrapTick_noi (s : State) : (wrapTick s).noi = s.noi := rfl
@[simp] theorem wrapTick_carry (s : State) : (wrapTick s).carry = s.carry := rfl
@[simp] theorem wrapTick_trace (s : State) : (wrapTick s).trace = s.trace := rfl
@[simp] theorem wrapTick_faultInfo (s : State) : (wrapTick s).faultInfo = s.faultInfo := rfl
@[simp] theorem wrapTick_results (s : State) : (wrapTick s).results = s.results := rfl
@[simp] theorem wrapTick_sink (s : State) : (wrapTick s).sink = s.sink := rfl
@[simp] theorem wrapTick_queue (s : State) : (wrapTick s).queue = s.queue := rfl

@[simp] theorem issued_globalCyc (s : State) (rest : List Byte) : (s.issued rest).globalCyc = s.globalCyc := rfl
@[simp] theorem issued_mode (s : State) (rest : List Byte) : (s.issued rest).mode = s.mode := rfl
@[simp] theorem issued_suppress (s : State) (rest : List Byte) : (s.issued rest).suppress = s.suppress := rfl
@[simp] theorem issued_tick (s : State) (rest : List Byte) : (s.issued rest).tick = s.tick := rfl
@[simp] theorem issued_nextTickCyc (s : State) (rest : List Byte) : (s.issued rest).nextTickCyc = s.nextTickCyc := rfl
@[simp] theorem issued_nextTransferCyc (s : State) (rest : List Byte) : (s.issued rest).nextTransferCyc = s.nextTransferCyc := rfl
@[simp] theorem issued_lastFrameCyc (s : State) (rest : List Byte) : (s.issued rest).lastFrameCyc = s.lastFrameCyc := rfl
@[simp] theorem issued_pending (s : State) (rest : List Byte) : (s.issued rest).pending = s.pending := rfl
@[simp] theorem issued_irqFlag (s : State) (rest : List Byte) : (s.issued rest).irqFlag = s.irqFlag := rfl
@[simp] theorem issued_fault (s : State) (rest : List Byte) : (s.issued rest).fault = s.fault := rfl
@[simp] theorem issued_p1 (s : State) (rest : List Byte) : (s.issued rest).p1 = s.p1 := rfl
@[simp] theorem issued_p2 (s : State) (rest : List Byte) : (s.issued rest).p2 = s.p2 := rfl
@[simp] theorem issued_tri (s : State) (rest : List Byte) : (s.issued rest).tri = s.tri := rfl
@[simp] theorem issued_noi (s : State) (rest : List Byte) : (s.issued rest).noi = s.noi := rfl
@[simp] theorem issued_carry (s : State) (rest : List Byte) : (s.issued rest).carry = s.carry := rfl
@[simp] theorem issued_trace (s : State) (rest : List Byte) : (s.issued rest).trace = s.trace := rfl
@[simp] theorem issued_faultInfo (s : State) (rest : List Byte) : (s.issued rest).faultInfo = s.faultInfo := rfl
@[simp] theorem issued_results (s : State) (rest : List Byte) : (s.issued rest).results = s.results := rfl
@[simp] theorem issued_sink (s : State) (rest : List Byte) : (s.issued rest).sink = s.sink := rfl
@[simp] theorem issued_queue (s : State) (rest : List Byte) : (s.issued rest).queue = rest := rfl

@[simp] theorem withCommand_globalCyc (s : State) (bytes : List Byte) : (s.withCommand bytes).globalCyc = s.globalCyc := rfl
@[simp] theorem withCommand_mode (s : State) (bytes : List Byte) : (s.withCommand bytes).mode = s.mode := rfl
@[simp] theorem withCommand_suppress (s : State) (bytes : List Byte) : (s.withCommand bytes).suppress = s.suppress := rfl
@[simp] theorem withCommand_tick (s : State) (bytes : List Byte) : (s.withCommand bytes).tick = s.tick := rfl
@[simp] theorem withCommand_nextTickCyc (s : State) (bytes : List Byte) : (s.withCommand bytes).nextTickCyc = s.nextTickCyc := rfl
@[simp] theorem withCommand_nextTransferCyc (s : State) (bytes : List Byte) : (s.withCommand bytes).nextTransferCyc = s.nextTransferCyc := rfl
@[simp] theorem withCommand_lastFrameCyc (s : State) (bytes : List Byte) : (s.withCommand bytes).lastFrameCyc = s.lastFrameCyc := rfl
@[simp] theorem withCommand_pending (s : State) (bytes : List Byte) : (s.withCommand bytes).pending = s.pending := rfl
@[simp] theorem withCommand_irqFlag (s : State) (bytes : List Byte) : (s.withCommand bytes).irqFlag = s.irqFlag := rfl
@[simp] theorem withCommand_fault (s : State) (bytes : List Byte) : (s.withCommand bytes).fault = s.fault := rfl
@[simp] theorem withCommand_p1 (s : State) (bytes : List Byte) : (s.withCommand bytes).p1 = s.p1 := rfl
@[simp] theorem withCommand_p2 (s : State) (bytes : List Byte) : (s.withCommand bytes).p2 = s.p2 := rfl
@[simp] theorem withCommand_tri (s : State) (bytes : List Byte) : (s.withCommand bytes).tri = s.tri := rfl
@[simp] theorem withCommand_noi (s : State) (bytes : List Byte) : (s.withCommand bytes).noi = s.noi := rfl
@[simp] theorem withCommand_carry (s : State) (bytes : List Byte) : (s.withCommand bytes).carry = s.carry := rfl
@[simp] theorem withCommand_trace (s : State) (bytes : List Byte) : (s.withCommand bytes).trace = s.trace := rfl
@[simp] theorem withCommand_faultInfo (s : State) (bytes : List Byte) : (s.withCommand bytes).faultInfo = s.faultInfo := rfl
@[simp] theorem withCommand_results (s : State) (bytes : List Byte) : (s.withCommand bytes).results = s.results := rfl
@[simp] theorem withCommand_sink (s : State) (bytes : List Byte) : (s.withCommand bytes).sink = s.sink := rfl
@[simp] theorem withCommand_queue (s : State) (bytes : List Byte) : (s.withCommand bytes).queue = bytes ++ s.queue := rfl

@[simp] theorem flushBlock_globalCyc (e : Nat) (s : State) : (flushBlock e s).globalCyc = s.globalCyc := rfl
@[simp] theorem flushBlock_mode (e : Nat) (s : State) : (flushBlock e s).mode = s.mode := rfl
@[simp] theorem flushBlock_suppress (e : Nat) (s : State) : (flushBlock e s).suppress = s.suppress := rfl
@[simp] theorem flushBlock_tick (e : Nat) (s : State) : (flushBlock e s).tick = s.tick := rfl
@[simp] theorem flushBlock_nextTickCyc (e : Nat) (s : State) : (flushBlock e s).nextTickCyc = s.nextTickCyc := rfl
@[simp] theorem flushBlock_nextTransferCyc (e : Nat) (s : State) : (flushBlock e s).nextTransferCyc = s.nextTransferCyc := rfl
@[simp] theorem flushBlock_lastFrameCyc (e : Nat) (s : State) : (flushBlock e s).lastFrameCyc = e := rfl
@[simp] theorem flushBlock_pending (e : Nat) (s : State) : (flushBlock e s).pending = s.pending := rfl
@[simp] theorem flushBlock_irqFlag (e : Nat) (s : State) : (flushBlock e s).irqFlag = s.irqFlag := rfl
@[simp] theorem flushBlock_fault (e : Nat) (s : State) : (flushBlock e s).fault = s.fault := rfl
@[simp] theorem flushBlock_p1 (e : Nat) (s : State) : (flushBlock e s).p1 = s.p1 := rfl
@[simp] theorem flushBlock_p2 (e : Nat) (s : State) : (flushBlock e s).p2 = s.p2 := rfl
@[simp] theorem flushBlock_tri (e : Nat) (s : State) : (flushBlock e s).tri = s.tri := rfl
@[simp] theorem flushBlock_noi (e : Nat) (s : State) : (flushBlock e s).noi = s.noi := rfl
@[simp] theorem flushBlock_carry (e : Nat) (s : State) : (flushBlock e s).carry = resampleCarry s.carry s.trace := rfl
@[simp] theorem flushBlock_trace (e : Nat) (s : State) : (flushBlock e s).trace = [] := rfl
@[simp] theorem flushBlock_faultInfo (e : Nat) (s : State) : (flushBlock e s).faultInfo = s.faultInfo := rfl
@[simp] theorem flushBlock_results (e : Nat) (s : State) : (flushBlock e s).results = s.results := rfl
@[simp] theorem flushBlock_sink (e : Nat) (s : State) : (flushBlock e s).sink = s.sink ++ [{ cycle := e, block := resampleBlock s.carry s.trace }] := rfl
@[simp] theorem flushBlock_queue (e : Nat) (s : State) : (flushBlock e s).queue = s.queue := rfl

@[simp] theorem playCycle_globalCyc (s : State) : (playCycle s).globalCyc = s.globalCyc := rfl
@[simp] theorem playCycle_mode (s : State) : (playCycle s).mode = s.mode := rfl
@[simp] theorem playCycle_suppress (s : State) : (playCycle s).suppress = s.suppress := rfl
@[simp] theorem playCycle_tick (s : State) : (playCycle s).tick = s.tick := rfl
@[simp] theorem playCycle_nextTickCyc (s : State) : (playCycle s).nextTickCyc = s.nextTickCyc := rfl
@[simp] theorem playCycle_nextTransferCyc (s : State) : (playCycle s).nextTransferCyc = s.nextTransferCyc := rfl
@[simp] theorem playCycle_lastFrameCyc (s : State) : (playCycle s).lastFrameCyc = s.lastFrameCyc := rfl
@[simp] theorem playCycle_pending (s : State) : (playCycle s).pending = s.pending := rfl
@[simp] theorem playCycle_irqFlag (s : State) : (playCycle s).irqFlag = s.irqFlag := rfl
@[simp] theorem playCycle_fault (s : State) : (playCycle s).fault = s.fault := rfl
@[simp] theorem playCycle_p1 (s : State) : (playCycle s).p1 = s.p1.stepTimer := rfl
@[simp] theorem playCycle_p2 (s : State) : (playCycle s).p2 = s.p2.stepTimer := rfl
@[simp] theorem playCycle_tri (s : State) : (playCycle s).tri = s.tri.stepTimer := rfl
@[simp] theorem playCycle_noi (s : State) : (playCycle s).noi = s.noi.stepTimer := rfl
@[simp] theorem playCycle_carry (s : State) : (playCycle s).carry = s.carry := rfl
@[simp] theorem playCycle_trace (s : State) : (playCycle s).trace = s.trace ++ [outTuple s] := rfl
@[simp] theorem playCycle_faultInfo (s : State) : (playCycle s).faultInfo = s.faultInfo := rfl
@[simp] theorem playCycle_results (s : State) : (playCycle s).results = s.results := rfl
@[simp] theorem playCycle_sink (s : State) : (playCycle s).sink = s.sink := rfl
@[simp] theorem playCycle_queue (s : State) : (playCycle s).queue = s.queue := rfl

@[simp] theorem envelopeClock_globalCyc (s : State) : (envelopeClock s).globalCyc = s.globalCyc := rfl
@[simp] theorem envelopeClock_mode (s : State) : (envelopeClock s).mode = s.mode := rfl
@[simp] theorem envelopeClock_suppress (s : State) : (envelopeClock s).suppress = s.suppress := rfl
@[simp] theorem envelopeClock_tick (s : State) : (envelopeClock s).tick = s.tick := rfl
@[simp] theorem envelopeClock_nextTickCyc (s : State) : (envelopeClock s).nextTickCyc = s.nextTickCyc := rfl
@[simp] theorem envelopeClock_nextTransferCyc (s : State) : (envelopeClock s).nextTransferCyc = s.nextTransferCyc := rfl
@[simp] theorem envelopeClock_lastFrameCyc (s : State) : (envelopeClock s).lastFrameCyc = s.lastFrameCyc := rfl
@[simp] theorem envelopeClock_pending (s : State) : (envelopeClock s).pending = s.pending := rfl
@[simp] theorem envelopeClock_irqFlag (s : State) : (envelopeClock s).irqFlag = s.irqFlag := rfl
@[simp] theorem envelopeClock_fault (s : State) : (envelopeClock s).fault = s.fault := rfl
@[simp] theorem envelopeClock_p1 (s : State) : (envelopeClock s).p1 = s.p1.envelopeClock := rfl
@[simp] theorem envelopeClock_p2 (s : State) : (envelopeClock s).p2 = s.p2.envelopeClock := rfl
@[simp] theorem envelopeClock_tri (s : State) : (envelopeClock s).tri = s.tri.envelopeClock := rfl
@[simp] theorem envelopeClock_noi (s : State) : (envelopeClock s).noi = s.noi.envelopeClock := rfl
@[simp] theorem envelopeClock_carry (s : State) : (envelopeClock s).carry = s.carry := rfl
@[simp] theorem envelopeClock_trace (s : State) : (envelopeClock s).trace = s.trace := rfl
@[simp] theorem envelopeClock_faultInfo (s : State) : (envelopeClock s).faultInfo = s.faultInfo := rfl
@[simp] theorem envelopeClock_results (s : State) : (envelopeClock s).results = s.results := rfl
@[simp] theorem envelopeClock_sink (s : State) : (envelopeClock s).sink = s.sink := rfl
@[simp] theorem envelopeClock_queue (s : State) : (envelopeClock s).queue = s.queue := rfl

@[simp] theorem lengthClock_globalCyc (s : State) : (lengthClock s).globalCyc = s.globalCyc := rfl
@[simp] theorem lengthClock_mode (s : State) : (lengthClock s).mode = s.mode := rfl
@[simp] theorem lengthClock_suppress (s : State) : (lengthClock s).suppress = s.suppress := rfl
@[simp] theorem lengthClock_tick (s : State) : (lengthClock s).tick = s.tick := rfl
@[simp] theorem lengthClock_nextTickCyc (s : State) : (lengthClock s).nextTickCyc = s.nextTickCyc := rfl
@[simp] theorem lengthClock_nextTransferCyc (s : State) : (lengthClock s).nextTransferCyc = s.nextTransferCyc := rfl
@[simp] theorem lengthClock_lastFrameCyc (s : State) : (lengthClock s).lastFrameCyc = s.lastFrameCyc := rfl
@[simp] theorem lengthClock_pending (s : State) : (lengthClock s).pending = s.pending := rfl
@[simp] theorem lengthClock_irqFlag (s : State) : (lengthClock s).irqFlag = s.irqFlag := rfl
@[simp] theorem lengthClock_fault (s : State) : (lengthClock s).fault = s.fault := rfl
@[simp] theorem lengthClock_p1 (s : State) : (lengthClock s).p1 = s.p1.lengthClock := rfl
@[simp] theorem lengthClock_p2 (s : State) : (lengthClock s).p2 = s.p2.lengthClock := rfl
@[simp] theorem lengthClock_tri (s : State) : (lengthClock s).tri = s.tri.lengthClock := rfl
@[simp] theorem lengthClock_noi (s : State) : (lengthClock s).noi = s.noi.lengthClock := rfl
@[simp] theorem lengthClock_carry (s : State) : (lengthClock s).carry = s.carry := rfl
@[simp] theorem lengthClock_trace (s : State) : (lengthClock s).trace = s.trace := rfl
@[simp] theorem lengthClock_faultInfo (s : State) : (lengthClock s).faultInfo = s.faultInfo := rfl
@[simp] theorem lengthClock_results (s : State) : (lengthClock s).results = s.results := rfl
@[simp] theorem lengthClock_sink (s : State) : (lengthClock s).sink = s.sink := rfl
@[simp] theorem lengthClock_queue (s : State) : (lengthClock s).queue = s.queue := rfl

@[simp] theorem enableWrite_globalCyc (v : Byte) (s : State) : (enableWrite v s).globalCyc = s.globalCyc := rfl
@[simp] theorem enableWrite_mode (v : Byte) (s : State) : (enableWrite v s).mode = s.mode := rfl
@[simp] theorem enableWrite_suppress (v : Byte) (s : State) : (enableWrite v s).suppress = s.suppress := rfl
@[simp] theorem enableWrite_tick (v : Byte) (s : State) : (enableWrite v s).tick = s.tick := rfl
@[simp] theorem enableWrite_nextTickCyc (v : Byte) (s : State) : (enableWrite v s).nextTickCyc = s.nextTickCyc := rfl
@[simp] theorem enableWrite_nextTransferCyc (v : Byte) (s : State) : (enableWrite v s).nextTransferCyc = s.nextTransferCyc := rfl
@[simp] theorem enableWrite_lastFrameCyc (v : Byte) (s : State) : (enableWrite v s).lastFrameCyc = s.lastFrameCyc := rfl
@[simp] theorem enableWrite_pending (v : Byte) (s : State) : (enableWrite v s).pending = s.pending := rfl
@[simp] theorem enableWrite_irqFlag (v : Byte) (s : State) : (enableWrite v s).irqFlag = s.irqFlag := rfl
@[simp] theorem enableWrite_fault (v : Byte) (s : State) : (enableWrite v s).fault = s.fault := rfl
@[simp] theorem enableWrite_p1 (v : Byte) (s : State) : (enableWrite v s).p1 = { s.p1 with len := s.p1.len.setEnable (enableP1 v) } := rfl
@[simp] theorem enableWrite_p2 (v : Byte) (s : State) : (enableWrite v s).p2 = { s.p2 with len := s.p2.len.setEnable (enableP2 v) } := rfl
@[simp] theorem enableWrite_tri (v : Byte) (s : State) : (enableWrite v s).tri = { s.tri with len := s.tri.len.setEnable (enableTri v) } := rfl
@[simp] theorem enableWrite_noi (v : Byte) (s : State) : (enableWrite v s).noi = { s.noi with len := s.noi.len.setEnable (enableNoi v) } := rfl
@[simp] theorem enableWrite_carry (v : Byte) (s : State) : (enableWrite v s).carry = s.carry := rfl
@[simp] theorem enableWrite_trace (v : Byte) (s : State) : (enableWrite v s).trace = s.trace := rfl
@[simp] theorem enableWrite_faultInfo (v : Byte) (s : State) : (enableWrite v s).faultInfo = s.faultInfo := rfl
@[simp] theorem enableWrite_results (v : Byte) (s : State) : (enableWrite v s).results = s.results := rfl
@[simp] theorem enableWrite_sink (v : Byte) (s : State) : (enableWrite v s).sink = s.sink := rfl
@[simp] theorem enableWrite_queue (v : Byte) (s : State) : (enableWrite v s).queue = s.queue := rfl

end Sys2Proof.Machine
end

