-- ==== Sys2Proof/Laws/Ops.lean ====
section
/-! SUPPORT. What the shared operations can do: one host operation (`perform`), scheduling, and the units the channels
share. `Post r Q E` says that an operation's result satisfies `Q` where it ends and `E` where a fault ends it. -/

namespace Sys2Proof.Machine

/-- `Q` of what an operation answers, `E` of the state a raised fault leaves. -/
def Post {α : Type} (r : Except State α) (Q : α → Prop) (E : State → Prop) : Prop :=
  match r with
  | .ok a => Q a
  | .error s => E s

@[simp] theorem post_ok {α : Type} (a : α) (Q : α → Prop) (E : State → Prop) : Post (.ok a) Q E ↔ Q a := Iff.rfl

@[simp] theorem post_error {α : Type} (s : State) (Q : α → Prop) (E : State → Prop) : Post (.error s) Q E ↔ E s :=
  Iff.rfl

theorem Post.mono {α : Type} {r : Except State α} {Q Q' : α → Prop} {E E' : State → Prop} (h : Post r Q E)
    (hq : ∀ a, Q a → Q' a) (he : ∀ s, E s → E' s) : Post r Q' E' := by
  cases r with
  | ok a => exact hq a h
  | error s => exact he s h

theorem schedule_eq_some {n d c : Nat} : schedule n d = some c ↔ n + d ≤ maxCycle ∧ c = n + d := by
  unfold schedule
  split <;> simp_all [eq_comm]

theorem schedule_eq_none {n d : Nat} : schedule n d = none ↔ maxCycle < n + d := by
  unfold schedule
  split <;> simp_all

theorem tickDelta_pos (m : FrameMode) (k : Nat) : 1 ≤ tickDelta m k := by
  unfold tickDelta
  split <;> omega

@[simp] theorem tickDelta_fourStep_zero : tickDelta .fourStep 0 = 7459 := by simp [tickDelta]

theorem clocksNeeded_pos (c : Carry) : 1 ≤ clocksNeeded c := by
  unfold clocksNeeded
  omega

@[simp] theorem resampleBlock_length (c : Carry) (tr : List OutTuple) :
    (resampleBlock c tr).length = Config.blockLen := by
  simp [resampleBlock]

/-! ## One host operation -/

section perform
variable {idle r : OpResult} {op : State → Except State (State × OpResult)} {s s' u : State}

theorem perform_faulted (h : s.fault.isSome = true) : perform idle op s = .next (logResult idle s) := by
  simp [perform, h]

theorem perform_ok (h : s.fault = none) (ho : op s = .ok (s', r)) : perform idle op s = .next (logResult r s') := by
  simp [perform, h, ho]

theorem perform_error (h : s.fault = none) (ho : op s = .error s') :
    perform idle op s = .next (logResult .nothing s') := by
  simp [perform, h, ho]

/-- Everything one host operation can do. -/
theorem perform_cases (h : perform idle op s = .next u) :
    (s.fault.isSome = true ∧ u = logResult idle s) ∨
    (s.fault = none ∧ ∃ s' r, op s = .ok (s', r) ∧ u = logResult r s') ∨
    (s.fault = none ∧ ∃ s', op s = .error s' ∧ u = logResult .nothing s') := by
  cases hf : s.fault with
  | some k => rw [perform_faulted (by simp [hf])] at h; cases h; exact .inl ⟨rfl, rfl⟩
  | none =>
    cases ho : op s with
    | ok p => rw [perform_ok hf (r := p.2) (s' := p.1) ho] at h; cases h; exact .inr (.inl ⟨rfl, _, _, rfl, rfl⟩)
    | error e => rw [perform_error hf ho] at h; cases h; exact .inr (.inr ⟨rfl, _, rfl, rfl⟩)

theorem perform_next (idle : OpResult) (op : State → Except State (State × OpResult)) (s : State) :
    ∃ u, perform idle op s = .next u := by
  unfold perform
  split
  · exact ⟨_, rfl⟩
  · split <;> exact ⟨_, rfl⟩

/-- What holds of every state an operation can leave holds after it. -/
theorem perform_keeps {P : State → Prop} (hlog : ∀ r s, P s → P (logResult r s)) (hs : P s)
    (hop : s.fault = none → Post (op s) (fun p => P p.1) P) (h : perform idle op s = .next u) : P u := by
  rcases perform_cases h with ⟨-, rfl⟩ | ⟨hf, s', r, ho, rfl⟩ | ⟨hf, s', ho, rfl⟩
  · exact hlog _ _ hs
  · have := hop hf; rw [ho] at this; exact hlog _ _ this
  · have := hop hf; rw [ho] at this; exact hlog _ _ this

end perform

theorem performWrite_ok {f : State → State} {s : State} (h : s.fault = none) :
    performWrite f s = .next (logResult .nothing (f s)) := perform_ok h rfl

theorem performWriteE_ok {f : State → Except State State} {s s' : State} (h : s.fault = none) (hf : f s = .ok s') :
    performWriteE f s = .next (logResult .nothing s') := perform_ok h (by simp [hf, Except.map])

theorem performWriteE_error {f : State → Except State State} {s s' : State} (h : s.fault = none)
    (hf : f s = .error s') : performWriteE f s = .next (logResult .nothing s') := perform_error h (by simp [hf, Except.map])

theorem performWriteE_keeps {P : State → Prop} {f : State → Except State State} {s u : State}
    (hlog : ∀ r s, P s → P (logResult r s)) (hs : P s) (hop : s.fault = none → Post (f s) P P)
    (h : performWriteE f s = .next u) : P u := by
  refine perform_keeps hlog hs (fun hf => ?_) h
  have := hop hf
  cases hfs : f s <;> simp_all [Except.map]

theorem performWrite_keeps {P : State → Prop} {f : State → State} {s u : State}
    (hlog : ∀ r s, P s → P (logResult r s)) (hs : P s) (hop : P (f s)) (h : performWrite f s = .next u) : P u :=
  perform_keeps (op := fun s => .ok (f s, .nothing)) hlog hs (fun _ => hop) h

/-! ## The sticky flag -/

theorem clearIrqIf_eq (b : Bool) (s : State) :
    clearIrqIf b s = { s with irqFlag := if b then false else s.irqFlag } := by
  cases b <;> rfl

theorem raiseFrameIrq_eq (s : State) :
    raiseFrameIrq s =
      ({ s with irqFlag := !s.suppress || s.irqFlag }, if s.suppress then none else some .frame) := by
  cases s
  unfold raiseFrameIrq
  split <;> simp_all

theorem orIrq_assoc (a b c : Option Interrupt) : orIrq (orIrq a b) c = orIrq a (orIrq b c) := by
  cases a <;> rfl

@[simp] theorem orIrq_none (a : Option Interrupt) : orIrq a none = a := by
  cases a <;> rfl

@[simp] theorem none_orIrq (a : Option Interrupt) : orIrq none a = a := rfl

/-! ## Length counter and envelope -/

theorem LengthUnit.load_eq (v : Byte) (l : LengthUnit) :
    l.load v = { l with count := if l.enabled then lengthEntry (lengthIndex v) else l.count } := by
  cases l
  unfold LengthUnit.load
  split <;> simp_all [loadWhenDisabled]

theorem LengthUnit.clock_eq (halt : Bool) (l : LengthUnit) :
    l.clock halt = { l with count := if l.count ≠ 0 ∧ halt = false then l.count - 1 else l.count } := by
  unfold LengthUnit.clock
  split <;> rfl

theorem sub_one_le (x : BitVec 8) (h : x ≠ 0#8) : x - 1#8 ≤ x := by
  bv_omega

theorem LengthUnit.clock_count_le (halt : Bool) (l : LengthUnit) : (l.clock halt).count ≤ l.count := by
  rw [LengthUnit.clock_eq]
  dsimp only
  split
  · exact sub_one_le _ (by simp_all)
  · exact BitVec.le_refl _

@[simp] theorem LengthUnit.clock_enabled (halt : Bool) (l : LengthUnit) : (l.clock halt).enabled = l.enabled := by
  rw [LengthUnit.clock_eq]

@[simp] theorem LengthUnit.load_enabled (v : Byte) (l : LengthUnit) : (l.load v).enabled = l.enabled := by
  rw [LengthUnit.load_eq]

@[simp] theorem Envelope.clock_halt (e : Envelope) : e.clock.halt = e.halt := by
  unfold Envelope.clock; split <;> [rfl; (split <;> rfl)]

@[simp] theorem Envelope.clock_constVol (e : Envelope) : e.clock.constVol = e.constVol := by
  unfold Envelope.clock; split <;> [rfl; (split <;> rfl)]

@[simp] theorem Envelope.clock_vol (e : Envelope) : e.clock.vol = e.vol := by
  unfold Envelope.clock; split <;> [rfl; (split <;> rfl)]

end Sys2Proof.Machine
end

