-- ==== Sys2Proof/Laws/Channels.lean ====
section
/-! SUPPORT. The units of the channels, one lemma per field they leave alone, and the two halves of a period write. -/

namespace Sys2Proof.Machine

/-! ## Timers -/

@[simp] theorem Pulse.stepTimer_len (p : Pulse) : p.stepTimer.len = p.len := by
  unfold Pulse.stepTimer; split <;> rfl

@[simp] theorem Pulse.stepTimer_env (p : Pulse) : p.stepTimer.env = p.env := by
  unfold Pulse.stepTimer; split <;> rfl

@[simp] theorem Pulse.stepTimer_duty (p : Pulse) : p.stepTimer.duty = p.duty := by
  unfold Pulse.stepTimer; split <;> rfl

@[simp] theorem Pulse.stepTimer_sweepEn (p : Pulse) : p.stepTimer.sweepEn = p.sweepEn := by
  unfold Pulse.stepTimer; split <;> rfl

@[simp] theorem Pulse.stepTimer_sweepPeriod (p : Pulse) : p.stepTimer.sweepPeriod = p.sweepPeriod := by
  unfold Pulse.stepTimer; split <;> rfl

@[simp] theorem Pulse.stepTimer_negate (p : Pulse) : p.stepTimer.negate = p.negate := by
  unfold Pulse.stepTimer; split <;> rfl

@[simp] theorem Pulse.stepTimer_shift (p : Pulse) : p.stepTimer.shift = p.shift := by
  unfold Pulse.stepTimer; split <;> rfl

@[simp] theorem Pulse.stepTimer_sweepReload (p : Pulse) : p.stepTimer.sweepReload = p.sweepReload := by
  unfold Pulse.stepTimer; split <;> rfl

@[simp] theorem Pulse.stepTimer_sweepDivider (p : Pulse) : p.stepTimer.sweepDivider = p.sweepDivider := by
  unfold Pulse.stepTimer; split <;> rfl

@[simp] theorem Pulse.stepTimer_period (p : Pulse) : p.stepTimer.period = p.period := by
  unfold Pulse.stepTimer; split <;> rfl

@[simp] theorem Pulse.stepTimer_isSecond (p : Pulse) : p.stepTimer.isSecond = p.isSecond := by
  unfold Pulse.stepTimer; split <;> rfl

@[simp] theorem Triangle.stepTimer_len (t : Triangle) : t.stepTimer.len = t.len := by
  unfold Triangle.stepTimer; split <;> rfl

@[simp] theorem Triangle.stepTimer_control (t : Triangle) : t.stepTimer.control = t.control := by
  unfold Triangle.stepTimer; split <;> rfl

@[simp] theorem Triangle.stepTimer_reloadVal (t : Triangle) : t.stepTimer.reloadVal = t.reloadVal := by
  unfold Triangle.stepTimer; split <;> rfl

@[simp] theorem Triangle.stepTimer_linear (t : Triangle) : t.stepTimer.linear = t.linear := by
  unfold Triangle.stepTimer; split <;> rfl

@[simp] theorem Triangle.stepTimer_linearReload (t : Triangle) : t.stepTimer.linearReload = t.linearReload := by
  unfold Triangle.stepTimer; split <;> rfl

@[simp] theorem Triangle.stepTimer_period (t : Triangle) : t.stepTimer.period = t.period := by
  unfold Triangle.stepTimer; split <;> rfl

@[simp] theorem Noise.stepTimer_len (n : Noise) : n.stepTimer.len = n.len := by
  unfold Noise.stepTimer; split <;> rfl

@[simp] theorem Noise.stepTimer_env (n : Noise) : n.stepTimer.env = n.env := by
  unfold Noise.stepTimer; split <;> rfl

@[simp] theorem Noise.stepTimer_mode (n : Noise) : n.stepTimer.mode = n.mode := by
  unfold Noise.stepTimer; split <;> rfl

@[simp] theorem Noise.stepTimer_periodIdx (n : Noise) : n.stepTimer.periodIdx = n.periodIdx := by
  unfold Noise.stepTimer; split <;> rfl

/-! ## Sweep -/

@[simp] theorem Pulse.sweepPeriodUpdate_len (p : Pulse) : p.sweepPeriodUpdate.len = p.len := by
  unfold Pulse.sweepPeriodUpdate; split <;> rfl

@[simp] theorem Pulse.sweepPeriodUpdate_env (p : Pulse) : p.sweepPeriodUpdate.env = p.env := by
  unfold Pulse.sweepPeriodUpdate; split <;> rfl

@[simp] theorem Pulse.sweepPeriodUpdate_duty (p : Pulse) : p.sweepPeriodUpdate.duty = p.duty := by
  unfold Pulse.sweepPeriodUpdate; split <;> rfl

@[simp] theorem Pulse.sweepPeriodUpdate_sweepEn (p : Pulse) : p.sweepPeriodUpdate.sweepEn = p.sweepEn := by
  unfold Pulse.sweepPeriodUpdate; split <;> rfl

@[simp] theorem Pulse.sweepPeriodUpdate_sweepPeriod (p : Pulse) : p.sweepPeriodUpdate.sweepPeriod = p.sweepPeriod := by
  unfold Pulse.sweepPeriodUpdate; split <;> rfl

@[simp] theorem Pulse.sweepPeriodUpdate_negate (p : Pulse) : p.sweepPeriodUpdate.negate = p.negate := by
  unfold Pulse.sweepPeriodUpdate; split <;> rfl

@[simp] theorem Pulse.sweepPeriodUpdate_shift (p : Pulse) : p.sweepPeriodUpdate.shift = p.shift := by
  unfold Pulse.sweepPeriodUpdate; split <;> rfl

@[simp] theorem Pulse.sweepPeriodUpdate_sweepReload (p : Pulse) : p.sweepPeriodUpdate.sweepReload = p.sweepReload := by
  unfold Pulse.sweepPeriodUpdate; split <;> rfl

@[simp] theorem Pulse.sweepPeriodUpdate_sweepDivider (p : Pulse) : p.sweepPeriodUpdate.sweepDivider = p.sweepDivider := by
  unfold Pulse.sweepPeriodUpdate; split <;> rfl

@[simp] theorem Pulse.sweepPeriodUpdate_timerCtr (p : Pulse) : p.sweepPeriodUpdate.timerCtr = p.timerCtr := by
  unfold Pulse.sweepPeriodUpdate; split <;> rfl

@[simp] theorem Pulse.sweepPeriodUpdate_dutyPos (p : Pulse) : p.sweepPeriodUpdate.dutyPos = p.dutyPos := by
  unfold Pulse.sweepPeriodUpdate; split <;> rfl

@[simp] theorem Pulse.sweepPeriodUpdate_isSecond (p : Pulse) : p.sweepPeriodUpdate.isSecond = p.isSecond := by
  unfold Pulse.sweepPeriodUpdate; split <;> rfl

@[simp] theorem Pulse.sweepDividerUpdate_len (p : Pulse) : p.sweepDividerUpdate.len = p.len := by
  unfold Pulse.sweepDividerUpdate; split <;> rfl

@[simp] theorem Pulse.sweepDividerUpdate_env (p : Pulse) : p.sweepDividerUpdate.env = p.env := by
  unfold Pulse.sweepDividerUpdate; split <;> rfl

@[simp] theorem Pulse.sweepDividerUpdate_duty (p : Pulse) : p.sweepDividerUpdate.duty = p.duty := by
  unfold Pulse.sweepDividerUpdate; split <;> rfl

@[simp] theorem Pulse.sweepDividerUpdate_sweepEn (p : Pulse) : p.sweepDividerUpdate.sweepEn = p.sweepEn := by
  unfold Pulse.sweepDividerUpdate; split <;> rfl

@[simp] theorem Pulse.sweepDividerUpdate_sweepPeriod (p : Pulse) : p.sweepDividerUpdate.sweepPeriod = p.sweepPeriod := by
  unfold Pulse.sweepDividerUpdate; split <;> rfl

@[simp] theorem Pulse.sweepDividerUpdate_negate (p : Pulse) : p.sweepDividerUpdate.negate = p.negate := by
  unfold Pulse.sweepDividerUpdate; split <;> rfl

@[simp] theorem Pulse.sweepDividerUpdate_shift (p : Pulse) : p.sweepDividerUpdate.shift = p.shift := by
  unfold Pulse.sweepDividerUpdate; split <;> rfl

@[simp] theorem Pulse.sweepDividerUpdate_period (p : Pulse) : p.sweepDividerUpdate.period = p.period := by
  unfold Pulse.sweepDividerUpdate; split <;> rfl

@[simp] theorem Pulse.sweepDividerUpdate_timerCtr (p : Pulse) : p.sweepDividerUpdate.timerCtr = p.timerCtr := by
  unfold Pulse.sweepDividerUpdate; split <;> rfl

@[simp] theorem Pulse.sweepDividerUpdate_dutyPos (p : Pulse) : p.sweepDividerUpdate.dutyPos = p.dutyPos := by
  unfold Pulse.sweepDividerUpdate; split <;> rfl

@[simp] theorem Pulse.sweepDividerUpdate_isSecond (p : Pulse) : p.sweepDividerUpdate.isSecond = p.isSecond := by
  unfold Pulse.sweepDividerUpdate; split <;> rfl

@[simp] theorem Pulse.sweepClock_len (p : Pulse) : p.sweepClock.len = p.len := by
  simp [Pulse.sweepClock]

@[simp] theorem Pulse.sweepClock_env (p : Pulse) : p.sweepClock.env = p.env := by
  simp [Pulse.sweepClock]

@[simp] theorem Pulse.sweepClock_duty (p : Pulse) : p.sweepClock.duty = p.duty := by
  simp [Pulse.sweepClock]

@[simp] theorem Pulse.sweepClock_sweepEn (p : Pulse) : p.sweepClock.sweepEn = p.sweepEn := by
  simp [Pulse.sweepClock]

@[simp] theorem Pulse.sweepClock_sweepPeriod (p : Pulse) : p.sweepClock.sweepPeriod = p.sweepPeriod := by
  simp [Pulse.sweepClock]

@[simp] theorem Pulse.sweepClock_negate (p : Pulse) : p.sweepClock.negate = p.negate := by
  simp [Pulse.sweepClock]

@[simp] theorem Pulse.sweepClock_shift (p : Pulse) : p.sweepClock.shift = p.shift := by
  simp [Pulse.sweepClock]

@[simp] theorem Pulse.sweepClock_timerCtr (p : Pulse) : p.sweepClock.timerCtr = p.timerCtr := by
  simp [Pulse.sweepClock]

@[simp] theorem Pulse.sweepClock_dutyPos (p : Pulse) : p.sweepClock.dutyPos = p.dutyPos := by
  simp [Pulse.sweepClock]

@[simp] theorem Pulse.sweepClock_isSecond (p : Pulse) : p.sweepClock.isSecond = p.isSecond := by
  simp [Pulse.sweepClock]

@[simp] theorem Pulse.sweepClock_period (p : Pulse) : p.sweepClock.period = p.sweepPeriodUpdate.period := by
  simp [Pulse.sweepClock]

/-! ## Period writes (R138) -/

theorem withTimerLow_low (p : BitVec 11) (v : Byte) : (withTimerLow p v).extractLsb' 0 8 = v := by
  apply BitVec.eq_of_toNat_eq
  rw [toNat_extract, withTimerLow, toNat_append_eq]
  have := v.isLt
  omega

theorem withTimerLow_high (p : BitVec 11) (v : Byte) :
    (withTimerLow p v).extractLsb' 8 3 = p.extractLsb' 8 3 := by
  apply BitVec.eq_of_toNat_eq
  rw [toNat_extract, withTimerLow, toNat_append_eq, toNat_extract]
  have := v.isLt
  omega

theorem withTimerHigh_low (p : BitVec 11) (v : Byte) :
    (withTimerHigh p v).extractLsb' 0 8 = p.extractLsb' 0 8 := by
  apply BitVec.eq_of_toNat_eq
  rw [toNat_extract, withTimerHigh, toNat_append_eq, toNat_extract, toNat_extract]
  have := v.isLt
  omega

theorem withTimerHigh_high (p : BitVec 11) (v : Byte) :
    (withTimerHigh p v).extractLsb' 8 3 = v.extractLsb' 0 3 := by
  apply BitVec.eq_of_toNat_eq
  rw [toNat_extract, withTimerHigh, toNat_append_eq, toNat_extract, toNat_extract]
  have := v.isLt
  omega

/-! ## Length units -/

/-- A disabled unit stays at 0 under a clock (R197). -/
theorem LengthUnit.clock_inactive (b : Bool) (l : LengthUnit) (h : l.enabled = false → l.count = 0) :
    (l.clock b).enabled = false → (l.clock b).count = 0 := by
  rw [LengthUnit.clock_eq]
  intro e
  dsimp only at *
  simp [h e]

/-- A disabled unit stays at 0 under a load (R194, with the default of R18). -/
theorem LengthUnit.load_inactive (v : Byte) (l : LengthUnit) (h : l.enabled = false → l.count = 0) :
    (l.load v).enabled = false → (l.load v).count = 0 := by
  rw [LengthUnit.load_eq]
  intro e
  dsimp only at *
  simp [e, h e]

theorem LengthUnit.setEnable_inactive (b : Bool) (l : LengthUnit) :
    (l.setEnable b).enabled = false → (l.setEnable b).count = 0 := by
  cases b <;> simp [LengthUnit.setEnable]

end Sys2Proof.Machine
end

