-- ==== Sys2Proof/Laws/Sequencer.lean ====
section
/-! SUPPORT. What the parts of the frame sequencer and the mixer can do: `play`, the step actions, a tick, a transfer,
an applied `$17` write, a `$17` write. Each is said once; proofs over a run cite these. -/

namespace Sys2Proof.Machine

/-! ## Play -/

@[simp] theorem playCycles_globalCyc (k : Nat) (s : State) : (playCycles k s).globalCyc = s.globalCyc := by
  induction k generalizing s with
  | zero => rfl
  | succ k ih => rw [playCycles, ih]; rfl

@[simp] theorem play_globalCyc (a b : Nat) (s : State) : (play a b s).globalCyc = s.globalCyc := playCycles_globalCyc _ s

@[simp] theorem playCycles_mode (k : Nat) (s : State) : (playCycles k s).mode = s.mode := by
  induction k generalizing s with
  | zero => rfl
  | succ k ih => rw [playCycles, ih]; rfl

@[simp] theorem play_mode (a b : Nat) (s : State) : (play a b s).mode = s.mode := playCycles_mode _ s

@[simp] theorem playCycles_suppress (k : Nat) (s : State) : (playCycles k s).suppress = s.suppress := by
  induction k generalizing s with
  | zero => rfl
  | succ k ih => rw [playCycles, ih]; rfl

@[simp] theorem play_suppress (a b : Nat) (s : State) : (play a b s).suppress = s.suppress := playCycles_suppress _ s

@[simp] theorem playCycles_tick (k : Nat) (s : State) : (playCycles k s).tick = s.tick := by
  induction k generalizing s with
  | zero => rfl
  | succ k ih => rw [playCycles, ih]; rfl

@[simp] theorem play_tick (a b : Nat) (s : State) : (play a b s).tick = s.tick := playCycles_tick _ s

@[simp] theorem playCycles_nextTickCyc (k : Nat) (s : State) : (playCycles k s).nextTickCyc = s.nextTickCyc := by
  induction k generalizing s with
  | zero => rfl
  | succ k ih => rw [playCycles, ih]; rfl

@[simp] theorem play_nextTickCyc (a b : Nat) (s : State) : (play a b s).nextTickCyc = s.nextTickCyc := playCycles_nextTickCyc _ s

@[simp] theorem playCycles_nextTransferCyc (k : Nat) (s : State) : (playCycles k s).nextTransferCyc = s.nextTransferCyc := by
  induction k generalizing s with
  | zero => rfl
  | succ k ih => rw [playCycles, ih]; rfl

@[simp] theorem play_nextTransferCyc (a b : Nat) (s : State) : (play a b s).nextTransferCyc = s.nextTransferCyc := playCycles_nextTransferCyc _ s

@[simp] theorem playCycles_lastFrameCyc (k : Nat) (s : State) : (playCycles k s).lastFrameCyc = s.lastFrameCyc := by
  induction k generalizing s with
  | zero => rfl
  | succ k ih => rw [playCycles, ih]; rfl

@[simp] theorem play_lastFrameCyc (a b : Nat) (s : State) : (play a b s).lastFrameCyc = s.lastFrameCyc := playCycles_lastFrameCyc _ s

@[simp] theorem playCycles_pending (k : Nat) (s : State) : (playCycles k s).pending = s.pending := by
  induction k generalizing s with
  | zero => rfl
  | succ k ih => rw [playCycles, ih]; rfl

@[simp] theorem play_pending (a b : Nat) (s : State) : (play a b s).pending = s.pending := playCycles_pending _ s

@[simp] theorem playCycles_irqFlag (k : Nat) (s : State) : (playCycles k s).irqFlag = s.irqFlag := by
  induction k generalizing s with
  | zero => rfl
  | succ k ih => rw [playCycles, ih]; rfl

@[simp] theorem play_irqFlag (a b : Nat) (s : State) : (play a b s).irqFlag = s.irqFlag := playCycles_irqFlag _ s

@[simp] theorem playCycles_fault (k : Nat) (s : State) : (playCycles k s).fault = s.fault := by
  induction k generalizing s with
  | zero => rfl
  | succ k ih => rw [playCycles, ih]; rfl

@[simp] theorem play_fault (a b : Nat) (s : State) : (play a b s).fault = s.fault := playCycles_fault _ s

@[simp] theorem playCycles_carry (k : Nat) (s : State) : (playCycles k s).carry = s.carry := by
  induction k generalizing s with
  | zero => rfl
  | succ k ih => rw [playCycles, ih]; rfl

@[simp] theorem play_carry (a b : Nat) (s : State) : (play a b s).carry = s.carry := playCycles_carry _ s

@[simp] theorem playCycles_faultInfo (k : Nat) (s : State) : (playCycles k s).faultInfo = s.faultInfo := by
  induction k generalizing s with
  | zero => rfl
  | succ k ih => rw [playCycles, ih]; rfl

@[simp] theorem play_faultInfo (a b : Nat) (s : State) : (play a b s).faultInfo = s.faultInfo := playCycles_faultInfo _ s

@[simp] theorem playCycles_results (k : Nat) (s : State) : (playCycles k s).results = s.results := by
  induction k generalizing s with
  | zero => rfl
  | succ k ih => rw [playCycles, ih]; rfl

@[simp] theorem play_results (a b : Nat) (s : State) : (play a b s).results = s.results := playCycles_results _ s

@[simp] theorem playCycles_sink (k : Nat) (s : State) : (playCycles k s).sink = s.sink := by
  induction k generalizing s with
  | zero => rfl
  | succ k ih => rw [playCycles, ih]; rfl

@[simp] theorem play_sink (a b : Nat) (s : State) : (play a b s).sink = s.sink := playCycles_sink _ s

@[simp] theorem playCycles_queue (k : Nat) (s : State) : (playCycles k s).queue = s.queue := by
  induction k generalizing s with
  | zero => rfl
  | succ k ih => rw [playCycles, ih]; rfl

@[simp] theorem play_queue (a b : Nat) (s : State) : (play a b s).queue = s.queue := playCycles_queue _ s

theorem playCycles_trace_length (k : Nat) (s : State) : (playCycles k s).trace.length = s.trace.length + k := by
  induction k generalizing s with
  | zero => rfl
  | succ k ih => rw [playCycles, ih]; simp; omega

theorem play_trace_length (a b : Nat) (s : State) : (play a b s).trace.length = s.trace.length + (b - a) :=
  playCycles_trace_length _ s

theorem playCycles_add (j k : Nat) (s : State) : playCycles (j + k) s = playCycles k (playCycles j s) := by
  induction j generalizing s with
  | zero => simp [playCycles]
  | succ j ih => rw [Nat.add_right_comm, playCycles, playCycles, ih]

theorem play_play {a b c : Nat} (hab : a ≤ b) (hbc : b ≤ c) (s : State) : play b c (play a b s) = play a c s := by
  rw [play, play, play, ← playCycles_add]
  congr 1
  omega

/-- What every cycle keeps, a window keeps. -/
theorem play_keeps {P : State → Prop} (hc : ∀ s, P s → P (playCycle s)) (a b : Nat) (s : State) (h : P s) :
    P (play a b s) := by
  unfold play
  generalize b - a = k
  induction k generalizing s with
  | zero => exact h
  | succ k ih => exact ih _ (hc _ h)

theorem playCycle_setGlobalCyc (c : Nat) (s : State) :
    playCycle { s with globalCyc := c } = { playCycle s with globalCyc := c } := rfl

theorem playCycles_setGlobalCyc (k : Nat) (c : Nat) (s : State) :
    playCycles k { s with globalCyc := c } = { playCycles k s with globalCyc := c } := by
  induction k generalizing s with
  | zero => rfl
  | succ k ih => rw [playCycles, playCycle_setGlobalCyc, ih]; rfl

/-! ## The sticky flag's conditional clear -/

@[simp] theorem clearIrqIf_globalCyc (b : Bool) (s : State) : (clearIrqIf b s).globalCyc = s.globalCyc := by
  cases b <;> rfl

@[simp] theorem clearIrqIf_mode (b : Bool) (s : State) : (clearIrqIf b s).mode = s.mode := by
  cases b <;> rfl

@[simp] theorem clearIrqIf_suppress (b : Bool) (s : State) : (clearIrqIf b s).suppress = s.suppress := by
  cases b <;> rfl

@[simp] theorem clearIrqIf_tick (b : Bool) (s : State) : (clearIrqIf b s).tick = s.tick := by
  cases b <;> rfl

@[simp] theorem clearIrqIf_nextTickCyc (b : Bool) (s : State) : (clearIrqIf b s).nextTickCyc = s.nextTickCyc := by
  cases b <;> rfl

@[simp] theorem clearIrqIf_nextTransferCyc (b : Bool) (s : State) : (clearIrqIf b s).nextTransferCyc = s.nextTransferCyc := by
  cases b <;> rfl

@[simp] theorem clearIrqIf_lastFrameCyc (b : Bool) (s : State) : (clearIrqIf b s).lastFrameCyc = s.lastFrameCyc := by
  cases b <;> rfl

@[simp] theorem clearIrqIf_pending (b : Bool) (s : State) : (clearIrqIf b s).pending = s.pending := by
  cases b <;> rfl

@[simp] theorem clearIrqIf_irqFlag (b : Bool) (s : State) :
    (clearIrqIf b s).irqFlag = if b then false else s.irqFlag := by
  cases b <;> rfl

@[simp] theorem clearIrqIf_fault (b : Bool) (s : State) : (clearIrqIf b s).fault = s.fault := by
  cases b <;> rfl

@[simp] theorem clearIrqIf_p1 (b : Bool) (s : State) : (clearIrqIf b s).p1 = s.p1 := by
  cases b <;> rfl

@[simp] theorem clearIrqIf_p2 (b : Bool) (s : State) : (clearIrqIf b s).p2 = s.p2 := by
  cases b <;> rfl

@[simp] theorem clearIrqIf_tri (b : Bool) (s : State) : (clearIrqIf b s).tri = s.tri := by
  cases b <;> rfl

@[simp] theorem clearIrqIf_noi (b : Bool) (s : State) : (clearIrqIf b s).noi = s.noi := by
  cases b <;> rfl

@[simp] theorem clearIrqIf_carry (b : Bool) (s : State) : (clearIrqIf b s).carry = s.carry := by
  cases b <;> rfl

@[simp] theorem clearIrqIf_trace (b : Bool) (s : State) : (clearIrqIf b s).trace = s.trace := by
  cases b <;> rfl

@[simp] theorem clearIrqIf_faultInfo (b : Bool) (s : State) : (clearIrqIf b s).faultInfo = s.faultInfo := by
  cases b <;> rfl

@[simp] theorem clearIrqIf_results (b : Bool) (s : State) : (clearIrqIf b s).results = s.results := by
  cases b <;> rfl

@[simp] theorem clearIrqIf_sink (b : Bool) (s : State) : (clearIrqIf b s).sink = s.sink := by
  cases b <;> rfl

@[simp] theorem clearIrqIf_queue (b : Bool) (s : State) : (clearIrqIf b s).queue = s.queue := by
  cases b <;> rfl

/-! ## Step actions -/

/-- Everything the actions of a step can do. -/
theorem stepActions_cases (m : FrameMode) (k : Nat) (s : State) :
    stepActions m k s = (s, none) ∨ stepActions m k s = (envelopeClock s, none) ∨
    stepActions m k s = (lengthClock (envelopeClock s), none) ∨
    (stepActions m k s = (wrapTick s, none)) ∨
    stepActions m k s =
      ({ lengthClock (envelopeClock s) with irqFlag := !s.suppress || s.irqFlag, tick := 0 },
        if s.suppress then none else some .frame) := by
  unfold stepActions
  split
  case h_4 => exact .inr (.inr (.inr (.inr (by rw [fourStepLast, raiseFrameIrq_eq]; rfl))))
  all_goals simp

/-- Only an unsuppressed step of the 4-step mode raises or sets the flag (R153). -/
theorem stepActions_masked {m : FrameMode} {k : Nat} {s : State} (h : m = .fiveStep ∨ s.suppress = true) :
    (stepActions m k s).2 = none ∧ (stepActions m k s).1.irqFlag = s.irqFlag := by
  unfold stepActions
  split
  case h_4 =>
    obtain h | h := h
    · cases h
    · rw [fourStepLast, raiseFrameIrq_eq]; simp [h]
  all_goals simp

/-- No step clears the flag (R154). -/
theorem stepActions_irq (m : FrameMode) (k : Nat) (s : State) (h : s.irqFlag = true) :
    (stepActions m k s).1.irqFlag = true := by
  rcases stepActions_cases m k s with e | e | e | e | e <;> simp [e, h]

/-- The step counter after a step is the count reached or 0 (R152). -/
theorem stepActions_tick (m : FrameMode) (k : Nat) (s : State) :
    (stepActions m k s).1.tick = s.tick ∨ (stepActions m k s).1.tick = 0 := by
  rcases stepActions_cases m k s with e | e | e | e | e <;> simp [e]

/-- What both clocks keep, a step keeps. -/
theorem stepActions_keeps {P : State → Prop} (he : ∀ s, P s → P (envelopeClock s)) (hl : ∀ s, P s → P (lengthClock s))
    (hi : ∀ s b, P s → P { s with irqFlag := b }) (ht : ∀ s, P s → P { s with tick := 0 })
    (m : FrameMode) (k : Nat) (s : State) (h : P s) : P (stepActions m k s).1 := by
  rcases stepActions_cases m k s with e | e | e | e | e <;> rw [e]
  · exact h
  · exact he _ h
  · exact hl _ (he _ h)
  · exact ht _ h
  · exact ht { lengthClock (envelopeClock s) with irqFlag := !s.suppress || s.irqFlag }
      (hi _ (!s.suppress || s.irqFlag) (hl _ (he _ h)))

@[simp] theorem stepActions_globalCyc (m : FrameMode) (k : Nat) (s : State) : (stepActions m k s).1.globalCyc = s.globalCyc := by
  rcases stepActions_cases m k s with h | h | h | h | h <;> simp [h]

@[simp] theorem immediateClock_globalCyc (m : FrameMode) (s : State) : (immediateClock m s).globalCyc = s.globalCyc := by
  cases m <;> rfl

@[simp] theorem stepActions_mode (m : FrameMode) (k : Nat) (s : State) : (stepActions m k s).1.mode = s.mode := by
  rcases stepActions_cases m k s with h | h | h | h | h <;> simp [h]

@[simp] theorem immediateClock_mode (m : FrameMode) (s : State) : (immediateClock m s).mode = s.mode := by
  cases m <;> rfl

@[simp] theorem stepActions_suppress (m : FrameMode) (k : Nat) (s : State) : (stepActions m k s).1.suppress = s.suppress := by
  rcases stepActions_cases m k s with h | h | h | h | h <;> simp [h]

@[simp] theorem immediateClock_suppress (m : FrameMode) (s : State) : (immediateClock m s).suppress = s.suppress := by
  cases m <;> rfl

@[simp] theorem stepActions_nextTickCyc (m : FrameMode) (k : Nat) (s : State) : (stepActions m k s).1.nextTickCyc = s.nextTickCyc := by
  rcases stepActions_cases m k s with h | h | h | h | h <;> simp [h]

@[simp] theorem immediateClock_nextTickCyc (m : FrameMode) (s : State) : (immediateClock m s).nextTickCyc = s.nextTickCyc := by
  cases m <;> rfl

@[simp] theorem stepActions_nextTransferCyc (m : FrameMode) (k : Nat) (s : State) : (stepActions m k s).1.nextTransferCyc = s.nextTransferCyc := by
  rcases stepActions_cases m k s with h | h | h | h | h <;> simp [h]

@[simp] theorem immediateClock_nextTransferCyc (m : FrameMode) (s : State) : (immediateClock m s).nextTransferCyc = s.nextTransferCyc := by
  cases m <;> rfl

@[simp] theorem stepActions_lastFrameCyc (m : FrameMode) (k : Nat) (s : State) : (stepActions m k s).1.lastFrameCyc = s.lastFrameCyc := by
  rcases stepActions_cases m k s with h | h | h | h | h <;> simp [h]

@[simp] theorem immediateClock_lastFrameCyc (m : FrameMode) (s : State) : (immediateClock m s).lastFrameCyc = s.lastFrameCyc := by
  cases m <;> rfl

@[simp] theorem stepActions_pending (m : FrameMode) (k : Nat) (s : State) : (stepActions m k s).1.pending = s.pending := by
  rcases stepActions_cases m k s with h | h | h | h | h <;> simp [h]

@[simp] theorem immediateClock_pending (m : FrameMode) (s : State) : (immediateClock m s).pending = s.pending := by
  cases m <;> rfl

@[simp] theorem stepActions_fault (m : FrameMode) (k : Nat) (s : State) : (stepActions m k s).1.fault = s.fault := by
  rcases stepActions_cases m k s with h | h | h | h | h <;> simp [h]

@[simp] theorem immediateClock_fault (m : FrameMode) (s : State) : (immediateClock m s).fault = s.fault := by
  cases m <;> rfl

@[simp] theorem stepActions_carry (m : FrameMode) (k : Nat) (s : State) : (stepActions m k s).1.carry = s.carry := by
  rcases stepActions_cases m k s with h | h | h | h | h <;> simp [h]

@[simp] theorem immediateClock_carry (m : FrameMode) (s : State) : (immediateClock m s).carry = s.carry := by
  cases m <;> rfl

@[simp] theorem stepActions_trace (m : FrameMode) (k : Nat) (s : State) : (stepActions m k s).1.trace = s.trace := by
  rcases stepActions_cases m k s with h | h | h | h | h <;> simp [h]

@[simp] theorem immediateClock_trace (m : FrameMode) (s : State) : (immediateClock m s).trace = s.trace := by
  cases m <;> rfl

@[simp] theorem stepActions_faultInfo (m : FrameMode) (k : Nat) (s : State) : (stepActions m k s).1.faultInfo = s.faultInfo := by
  rcases stepActions_cases m k s with h | h | h | h | h <;> simp [h]

@[simp] theorem immediateClock_faultInfo (m : FrameMode) (s : State) : (immediateClock m s).faultInfo = s.faultInfo := by
  cases m <;> rfl

@[simp] theorem stepActions_results (m : FrameMode) (k : Nat) (s : State) : (stepActions m k s).1.results = s.results := by
  rcases stepActions_cases m k s with h | h | h | h | h <;> simp [h]

@[simp] theorem immediateClock_results (m : FrameMode) (s : State) : (immediateClock m s).results = s.results := by
  cases m <;> rfl

@[simp] theorem stepActions_sink (m : FrameMode) (k : Nat) (s : State) : (stepActions m k s).1.sink = s.sink := by
  rcases stepActions_cases m k s with h | h | h | h | h <;> simp [h]

@[simp] theorem immediateClock_sink (m : FrameMode) (s : State) : (immediateClock m s).sink = s.sink := by
  cases m <;> rfl

@[simp] theorem stepActions_queue (m : FrameMode) (k : Nat) (s : State) : (stepActions m k s).1.queue = s.queue := by
  rcases stepActions_cases m k s with h | h | h | h | h <;> simp [h]

@[simp] theorem immediateClock_queue (m : FrameMode) (s : State) : (immediateClock m s).queue = s.queue := by
  cases m <;> rfl

@[simp] theorem immediateClock_tick (m : FrameMode) (s : State) : (immediateClock m s).tick = s.tick := by
  cases m <;> rfl

@[simp] theorem immediateClock_irqFlag (m : FrameMode) (s : State) : (immediateClock m s).irqFlag = s.irqFlag := by
  cases m <;> rfl

/-! ## Events -/

theorem tickEvent_ok {n : Nat} {s : State} (h : n + tickDelta s.mode (s.tick + 1) ≤ maxCycle) :
    tickEvent n s = .ok (stepActions s.mode (s.tick + 1)
      { s with tick := s.tick + 1, nextTickCyc := n + tickDelta s.mode (s.tick + 1) }) := by
  rw [tickEvent, schedule_eq_some.mpr ⟨h, rfl⟩]

theorem tickEvent_error {n : Nat} {s : State} (h : maxCycle < n + tickDelta s.mode (s.tick + 1)) :
    tickEvent n s = .error (raiseFault .cycleOverflow (n + tickDelta s.mode (s.tick + 1)) { s with tick := s.tick + 1 }) := by
  rw [tickEvent, schedule_eq_none.mpr h]

theorem transfer_ok {e : Nat} {s : State} (h : e + clocksNeeded (resampleCarry s.carry s.trace) ≤ maxCycle) :
    transfer e s = .ok { flushBlock e s with
      nextTransferCyc := e + clocksNeeded (resampleCarry s.carry s.trace) } := by
  simp [transfer, schedule_eq_some.mpr ⟨h, rfl⟩]

theorem transfer_error {e : Nat} {s : State} (h : maxCycle < e + clocksNeeded (resampleCarry s.carry s.trace)) :
    transfer e s = .error (raiseFault .cycleOverflow (e + clocksNeeded (resampleCarry s.carry s.trace))
      (flushBlock e s)) := by
  simp [transfer, schedule_eq_none.mpr h]

theorem applyFrame_ok {v : Byte} {e : Nat} {s : State} (h : e + tickDelta (frameMode v) 0 ≤ maxCycle) :
    applyFrame v e s = .ok (immediateClock (frameMode v) (clearIrqIf (frameSuppress v) { s with
      mode := frameMode v
      suppress := frameSuppress v
      tick := 0
      nextTickCyc := e + tickDelta (frameMode v) 0 })) := by
  rw [applyFrame, schedule_eq_some.mpr ⟨h, rfl⟩]

theorem applyFrame_error {v : Byte} {e : Nat} {s : State} (h : maxCycle < e + tickDelta (frameMode v) 0) :
    applyFrame v e s = .error (raiseFault .cycleOverflow (e + tickDelta (frameMode v) 0)
      { s with mode := frameMode v, suppress := frameSuppress v, tick := 0 }) := by
  rw [applyFrame, schedule_eq_none.mpr h]

theorem tickEvent_post {n : Nat} {s : State} {Q : State × Option Interrupt → Prop} {E : State → Prop}
    (hq : n + tickDelta s.mode (s.tick + 1) ≤ maxCycle → Q (stepActions s.mode (s.tick + 1)
      { s with tick := s.tick + 1, nextTickCyc := n + tickDelta s.mode (s.tick + 1) }))
    (he : ∀ k, E (raiseFault .cycleOverflow k { s with tick := s.tick + 1 })) : Post (tickEvent n s) Q E := by
  by_cases h : n + tickDelta s.mode (s.tick + 1) ≤ maxCycle
  · rw [tickEvent_ok h]; exact hq h
  · rw [tickEvent_error (by omega)]; exact he _

theorem transfer_post {e : Nat} {s : State} {Q E : State → Prop}
    (hq : e + clocksNeeded (resampleCarry s.carry s.trace) ≤ maxCycle → Q { flushBlock e s with
      nextTransferCyc := e + clocksNeeded (resampleCarry s.carry s.trace) })
    (he : ∀ k, E (raiseFault .cycleOverflow k (flushBlock e s))) : Post (transfer e s) Q E := by
  by_cases h : e + clocksNeeded (resampleCarry s.carry s.trace) ≤ maxCycle
  · rw [transfer_ok h]; exact hq h
  · rw [transfer_error (by omega)]; exact he _

theorem applyFrame_post {v : Byte} {e : Nat} {s : State} {Q E : State → Prop}
    (hq : e + tickDelta (frameMode v) 0 ≤ maxCycle →
      Q (immediateClock (frameMode v) (clearIrqIf (frameSuppress v) { s with
        mode := frameMode v
        suppress := frameSuppress v
        tick := 0
        nextTickCyc := e + tickDelta (frameMode v) 0 })))
    (he : ∀ k, E (raiseFault .cycleOverflow k
      { s with mode := frameMode v, suppress := frameSuppress v, tick := 0 })) : Post (applyFrame v e s) Q E := by
  by_cases h : e + tickDelta (frameMode v) 0 ≤ maxCycle
  · rw [applyFrame_ok h]; exact hq h
  · rw [applyFrame_error (by omega)]; exact he _

theorem writeFrame_post {v : Byte} {s : State} {Q E : State → Prop}
    (hodd : s.globalCyc % 2 = 1 → s.globalCyc + 1 ≤ maxCycle →
      Q { clearIrqIf (frameSuppress v) s with pending := some (s.globalCyc + 1, v) })
    (hover : ∀ k, E (raiseFault .cycleOverflow k (clearIrqIf (frameSuppress v) s)))
    (heven : s.globalCyc % 2 = 0 →
      Post (applyFrame v s.globalCyc { clearIrqIf (frameSuppress v) s with pending := none }) Q E) :
    Post (writeFrame v s) Q E := by
  unfold writeFrame
  by_cases hp : s.globalCyc % 2 = 1
  · by_cases hm : s.globalCyc + 1 ≤ maxCycle
    · simp only [hp, if_true, schedule_eq_some.mpr ⟨hm, rfl⟩]; exact hodd hp hm
    · simp only [hp, if_true, schedule_eq_none.mpr (Nat.lt_of_not_le hm)]; exact hover _
  · simp only [hp, if_false]; exact heven (by omega)

/-- The events due at `n`, stage by stage (R144): tick, transfer, jitter resolution. -/
theorem eventsAt_post {n : Nat} {s : State} {Q1 Q2 Q3 : State → Option Interrupt → Prop} {E : State → Prop}
    (h1 : Post (tickIfDue n s) (fun p => Q1 p.1 p.2) E)
    (h2 : ∀ s1 i, Q1 s1 i → Post (transferIfDue n s1) (fun s2 => Q2 s2 i) E)
    (h3 : ∀ s2 i, Q2 s2 i → Post (resolveIfDue n s2) (fun s3 => Q3 s3 i) E) :
    Post (eventsAt n s) (fun p => Q3 p.1 p.2) E := by
  unfold eventsAt
  cases ht : tickIfDue n s with
  | error e => rw [ht] at h1; exact h1
  | ok p =>
    rw [ht] at h1
    have := h2 _ _ h1
    cases hx : transferIfDue n p.1 with
    | error e => rw [hx] at this; simpa [hx] using this
    | ok s2 =>
      rw [hx] at this
      have := h3 _ _ this
      cases hr : resolveIfDue n s2 with
      | error e => rw [hr] at this; simpa [hx, hr] using this
      | ok s3 => rw [hr] at this; simpa [hx, hr] using this

end Sys2Proof.Machine
end

