-- ==== Sys2Proof/Laws/RunTo.lean ====
section
/-! SUPPORT. The catch-up loop: what one iteration can do, the loop's induction packaged once, that its bound is enough
in every state, and that it keeps the schedule ahead of the clock (R147). -/

namespace Sys2Proof.Machine

/-! ## One iteration -/

theorem runIteration_post {t : Nat} {s : State} {Q : State → Option Interrupt → Prop} {E : State → Prop}
    (h : Post (eventsAt (nextBoundary t s) (play s.globalCyc (nextBoundary t s) s))
      (fun p => Q { p.1 with globalCyc := nextBoundary t s } p.2) E) :
    Post (runIteration t s) (fun p => Q p.1 p.2) E := by
  unfold runIteration
  cases he : eventsAt (nextBoundary t s) (play s.globalCyc (nextBoundary t s) s) with
  | error e => rw [he] at h; simpa [he] using h
  | ok p => rw [he] at h; simpa [he] using h

theorem resolveIfDue_post {n : Nat} {s : State} {Q E : State → Prop}
    (hno : (∀ v, s.pending ≠ some (n, v)) → Q s)
    (hyes : ∀ v, s.pending = some (n, v) → Post (applyFrame v n { s with pending := none }) Q E) :
    Post (resolveIfDue n s) Q E := by
  unfold resolveIfDue
  split
  case h_1 pc v hp =>
    split
    · rename_i e; subst e; exact hyes v hp
    · rename_i e; exact hno (by rw [hp]; simp [e])
  case h_2 hp => exact hno (by rw [hp]; simp)

theorem tickIfDue_post {n : Nat} {s : State} {Q : State × Option Interrupt → Prop} {E : State → Prop}
    (hno : n ≠ s.nextTickCyc → Q (s, none)) (hyes : n = s.nextTickCyc → Post (tickEvent n s) Q E) :
    Post (tickIfDue n s) Q E := by
  unfold tickIfDue
  split
  · exact hyes ‹_›
  · exact hno ‹_›

theorem transferIfDue_post {n : Nat} {s : State} {Q E : State → Prop}
    (hno : n ≠ s.nextTransferCyc → Q s) (hyes : n = s.nextTransferCyc → Post (transfer n s) Q E) :
    Post (transferIfDue n s) Q E := by
  unfold transferIfDue
  split
  · exact hyes ‹_›
  · exact hno ‹_›

/-- What the parts keep, an iteration keeps. -/
theorem runIteration_keeps {P : State → Prop} (hplay : ∀ s, P s → P (playCycle s))
    (htick : ∀ n s, P s → Post (tickEvent n s) (fun p => P p.1) P) (htransfer : ∀ n s, P s → Post (transfer n s) P P)
    (happly : ∀ v n s, P s → s.pending = some (n, v) → Post (applyFrame v n { s with pending := none }) P P)
    (hclock : ∀ n s, P s → P { s with globalCyc := n }) (t : Nat) (s : State) (h : P s) :
    Post (runIteration t s) (fun p => P p.1) P := by
  refine runIteration_post (Q := fun s _ => P s) ?_
  refine Post.mono (eventsAt_post (Q1 := fun s _ => P s) (Q2 := fun s _ => P s) (Q3 := fun s _ => P s) ?_ ?_ ?_)
    (fun p hp => hclock _ _ hp) (fun _ he => he)
  · exact tickIfDue_post (fun _ => play_keeps hplay _ _ _ h) (fun _ => htick _ _ (play_keeps hplay _ _ _ h))
  · exact fun s1 _ h1 => transferIfDue_post (fun _ => h1) (fun _ => htransfer _ _ h1)
  · exact fun s2 _ h2 => resolveIfDue_post (fun _ => h2) (fun v hp => happly v _ _ h2 hp)

/-- What an iteration does to the fault mark: it raises `CycleOverflow` or leaves the mark (R343). -/
theorem runIteration_fault {f : Option Fault} {t : Nat} {s : State} (h : s.fault = f) :
    Post (runIteration t s) (fun p => p.1.fault = f) (fun e => e.fault = some .cycleOverflow) := by
  refine runIteration_post (Q := fun s _ => s.fault = f) (eventsAt_post (Q1 := fun s _ => s.fault = f)
    (Q2 := fun s _ => s.fault = f) (Q3 := fun s _ => s.fault = f) ?_ ?_ ?_)
  · exact tickIfDue_post (fun _ => by simpa using h) (fun _ => tickEvent_post (fun _ => by simpa using h) (fun _ => rfl))
  · exact fun s1 _ h => transferIfDue_post (fun _ => h) (fun _ => transfer_post (fun _ => h) (fun _ => rfl))
  · exact fun s2 _ h => resolveIfDue_post (fun _ => h)
      (fun v _ => applyFrame_post (fun _ => by simpa using h) (fun _ => rfl))

/-! ## The loop -/

theorem runLoop_stop {fuel t : Nat} {s : State} {irq : Option Interrupt} (h : t ≤ s.globalCyc) :
    runLoop fuel t s irq = .ok (s, irq) := by
  cases fuel with
  | zero => rfl
  | succ f => rw [runLoop, if_neg (by omega)]

theorem runLoop_step_ok {fuel t : Nat} {s s1 : State} {irq i : Option Interrupt} (h : s.globalCyc < t)
    (he : runIteration t s = .ok (s1, i)) : runLoop (fuel + 1) t s irq = runLoop fuel t s1 (orIrq irq i) := by
  rw [runLoop, if_pos h, he]

theorem runLoop_step_error {fuel t : Nat} {s s1 : State} {irq : Option Interrupt} (h : s.globalCyc < t)
    (he : runIteration t s = .error s1) : runLoop (fuel + 1) t s irq = .error s1 := by
  rw [runLoop, if_pos h, he]

/-- The loop's result ORs what it starts with into what it finds (R142). -/
theorem runLoop_irq (fuel t : Nat) (s : State) (irq : Option Interrupt) :
    runLoop fuel t s irq = (runLoop fuel t s none).map (fun p => (p.1, orIrq irq p.2)) := by
  induction fuel generalizing s irq with
  | zero => simp [runLoop, Except.map]
  | succ f ih =>
    by_cases h : s.globalCyc < t
    · cases he : runIteration t s with
      | error e => rw [runLoop_step_error h he, runLoop_step_error h he]; rfl
      | ok p =>
        rw [runLoop_step_ok h he, runLoop_step_ok h he, ih, ih p.1 (orIrq none p.2)]
        cases runLoop f t p.1 none <;> simp [Except.map, orIrq_assoc]
    · rw [runLoop_stop (by omega), runLoop_stop (by omega)]; simp [Except.map]

/-- The loop's induction, packaged: what an iteration before the target keeps, the loop keeps. -/
theorem runLoop_post {t : Nat} {P E : State → Prop}
    (hit : ∀ s, P s → s.globalCyc < t → Post (runIteration t s) (fun p => P p.1) E) (fuel : Nat) (s : State)
    (irq : Option Interrupt) (h : P s) : Post (runLoop fuel t s irq) (fun p => P p.1) E := by
  induction fuel generalizing s irq with
  | zero => exact h
  | succ f ih =>
    by_cases hg : s.globalCyc < t
    · have := hit s h hg
      cases he : runIteration t s with
      | error e => rw [runLoop_step_error hg he]; rw [he] at this; exact this
      | ok p => rw [runLoop_step_ok hg he]; rw [he] at this; exact ih _ _ this
    · rw [runLoop_stop (by omega)]; exact h

theorem runTo_post {t : Nat} {P E : State → Prop}
    (hit : ∀ s, P s → s.globalCyc < t → Post (runIteration t s) (fun p => P p.1) E) (s : State) (h : P s) :
    Post (runTo t s) (fun p => P p.1) E := runLoop_post hit _ s _ h

/-- What `run_to` does to the fault mark (R343). -/
theorem runTo_fault {f : Option Fault} {t : Nat} {s : State} (h : s.fault = f) :
    Post (runTo t s) (fun p => p.1.fault = f) (fun e => e.fault = some .cycleOverflow) :=
  runTo_post (P := fun s => s.fault = f) (fun _ h _ => runIteration_fault h) s h

theorem runTo_stop {t : Nat} {s : State} (h : t ≤ s.globalCyc) : runTo t s = .ok (s, none) := runLoop_stop h

theorem runOperation_post {t : Nat} {P E : State → Prop}
    (hit : ∀ s, P s → s.globalCyc < t → Post (runIteration t s) (fun p => P p.1) E) (s : State) (h : P s) :
    Post (runOperation t s) (fun p => P p.1) E := by
  have := runTo_post hit s h
  unfold runOperation
  cases hr : runTo t s <;> rw [hr] at this <;> simpa [hr] using this

theorem readStatus_post {c : Nat} {P E : State → Prop}
    (hit : ∀ t s, P s → s.globalCyc < t → Post (runIteration t s) (fun p => P p.1) E)
    (hclear : ∀ s, P s → P (clearIrq s)) (s : State) (h : P s) : Post (readStatus c s) (fun p => P p.1) E := by
  have h1 := runTo_post (hit (c - 1)) s h
  unfold readStatus
  cases hr : runTo (c - 1) s with
  | error e => rw [hr] at h1; simpa [hr] using h1
  | ok p =>
    rw [hr] at h1
    have h2 := runTo_post (hit c) (clearIrq p.1) (hclear _ h1)
    cases hr2 : runTo c (clearIrq p.1) <;> rw [hr2] at h2 <;> simpa [hr2] using h2

/-! ## The schedule (R147) -/

theorem nextBoundary_le (t : Nat) (s : State) :
    nextBoundary t s ≤ t ∧ nextBoundary t s ≤ s.nextTickCyc ∧ nextBoundary t s ≤ s.nextTransferCyc ∧
      ∀ pc v, s.pending = some (pc, v) → nextBoundary t s ≤ pc := by
  unfold nextBoundary
  cases hp : s.pending with
  | none => simp only []; exact ⟨by omega, by omega, by omega, by simp⟩
  | some p =>
    obtain ⟨pc, v⟩ := p
    refine ⟨by simp only []; omega, by simp only []; omega, by simp only []; omega, ?_⟩
    intro pc' v' h
    cases h
    simp only []; omega

/-- The boundary is the target or a scheduled cycle. -/
theorem nextBoundary_cases (t : Nat) (s : State) :
    nextBoundary t s = t ∨ nextBoundary t s = s.nextTickCyc ∨ nextBoundary t s = s.nextTransferCyc ∨
      ∃ v, s.pending = some (nextBoundary t s, v) := by
  unfold nextBoundary
  cases hp : s.pending with
  | none => simp only []; omega
  | some p =>
    obtain ⟨pc, v⟩ := p
    simp only [Option.some.injEq, Prod.mk.injEq]
    by_cases h : min (min t (min s.nextTickCyc s.nextTransferCyc)) pc = pc
    · exact .inr (.inr (.inr ⟨v, h.symm, rfl⟩))
    · omega

theorem Scheduled.lt_nextBoundary {t : Nat} {s : State} (h : Scheduled s) (ht : s.globalCyc < t) :
    s.globalCyc < nextBoundary t s := by
  obtain ⟨h1, h2, h3⟩ := h
  rcases nextBoundary_cases t s with e | e | e | ⟨v, e⟩
  · omega
  · omega
  · omega
  · exact h3 _ _ e

/-- After its events every scheduled cycle is past `n`; a fault leaves every scheduled cycle past any `g < n`. -/
theorem eventsAt_scheduled {g n : Nat} {s : State} (hg : g < n) (hc : s.globalCyc = g) (h1 : n ≤ s.nextTickCyc)
    (h2 : n ≤ s.nextTransferCyc) (h3 : ∀ pc v, s.pending = some (pc, v) → n ≤ pc) :
    Post (eventsAt n s)
      (fun p => n < p.1.nextTickCyc ∧ n < p.1.nextTransferCyc ∧ ∀ pc v, p.1.pending = some (pc, v) → n < pc)
      (fun e => Scheduled e) := by
  refine eventsAt_post
    (Q1 := fun s _ => s.globalCyc = g ∧ n < s.nextTickCyc ∧ n ≤ s.nextTransferCyc ∧
      ∀ pc v, s.pending = some (pc, v) → n ≤ pc)
    (Q2 := fun s _ => s.globalCyc = g ∧ n < s.nextTickCyc ∧ n < s.nextTransferCyc ∧
      ∀ pc v, s.pending = some (pc, v) → n ≤ pc)
    (Q3 := fun s _ => n < s.nextTickCyc ∧ n < s.nextTransferCyc ∧ ∀ pc v, s.pending = some (pc, v) → n < pc)
    ?_ ?_ ?_
  · refine tickIfDue_post (fun e => ⟨hc, Nat.lt_of_le_of_ne h1 e, h2, h3⟩) (fun e => tickEvent_post (fun _ => ?_) (fun k => ?_))
    · have := tickDelta_pos s.mode (s.tick + 1)
      exact ⟨by simpa using hc, by simp; omega, by simpa using h2, by simpa using h3⟩
    · refine ⟨?_, ?_, ?_⟩ <;> simp [hc]
      · omega
      · omega
      · intro pc v hp; exact Nat.lt_of_lt_of_le hg (h3 _ _ hp)
  · rintro s1 i ⟨hc, h1, h2, h3⟩
    refine transferIfDue_post (fun e => ⟨hc, h1, by omega, h3⟩) (fun e => transfer_post (fun _ => ?_) (fun k => ?_))
    · have := clocksNeeded_pos (resampleCarry s1.carry s1.trace)
      exact ⟨by simpa using hc, by simpa using h1, by simp; omega, by simpa using h3⟩
    · refine ⟨?_, ?_, ?_⟩ <;> simp [hc]
      · omega
      · omega
      · intro pc v hp; exact Nat.lt_of_lt_of_le hg (h3 _ _ hp)
  · rintro s2 i ⟨hc, h1, h2, h3⟩
    refine resolveIfDue_post (fun hno => ⟨h1, h2, fun pc v hp => ?_⟩) (fun v hp => applyFrame_post (fun _ => ?_) (fun k => ?_))
    · have := h3 _ _ hp
      rcases Nat.lt_or_eq_of_le this with h | h
      · exact h
      · subst h; exact absurd hp (hno v)
    · have := tickDelta_pos (frameMode v) 0
      exact ⟨by simp; omega, by simpa using h2, by simp⟩
    · exact ⟨by simp [hc]; omega, by simp [hc]; omega, by simp⟩

/-- An iteration keeps the schedule ahead of the clock and moves the clock to its boundary; a fault leaves the clock. -/
theorem runIteration_scheduled {t : Nat} {s : State} (h : Scheduled s) (ht : s.globalCyc < t) :
    Post (runIteration t s) (fun p => Scheduled p.1 ∧ p.1.globalCyc = nextBoundary t s) Scheduled := by
  have hb := nextBoundary_le t s
  refine runIteration_post (Q := fun s' _ => Scheduled s' ∧ s'.globalCyc = nextBoundary t s) ?_
  refine Post.mono (eventsAt_scheduled (h.lt_nextBoundary ht) (by simp) (by simpa using hb.2.1) (by simpa using hb.2.2.1)
    (by simpa using hb.2.2.2)) (fun p hp => ⟨hp, rfl⟩) (fun _ he => he)

theorem runTo_scheduled {t : Nat} {s : State} (h : Scheduled s) :
    Post (runTo t s) (fun p => Scheduled p.1) Scheduled :=
  runTo_post (fun _ hs ht => Post.mono (runIteration_scheduled hs ht) (fun _ h => h.1) (fun _ h => h)) s h

/-- With its schedule ahead, a loop with an iteration for every cycle reaches its target exactly (R385). -/
theorem runLoop_reaches {fuel t : Nat} {s : State} {irq : Option Interrupt} (h : Scheduled s)
    (hf : t - s.globalCyc ≤ fuel) :
    Post (runLoop fuel t s irq) (fun p => p.1.globalCyc = max s.globalCyc t) (fun _ => True) := by
  induction fuel generalizing s irq with
  | zero => simp only [runLoop, post_ok]; omega
  | succ f ih =>
    by_cases ht : s.globalCyc < t
    · have hi := runIteration_scheduled h ht
      have hlt := h.lt_nextBoundary ht
      have hle := (nextBoundary_le t s).1
      cases he : runIteration t s with
      | error e => rw [runLoop_step_error ht he]; trivial
      | ok p =>
        rw [he] at hi
        obtain ⟨hs, hc⟩ := hi
        rw [runLoop_step_ok ht he]
        refine Post.mono (ih hs (by omega)) (fun q hq => ?_) (fun _ _ => trivial)
        rw [hq, hc]; omega
    · rw [runLoop_stop (by omega)]; simp only [post_ok]; omega

theorem runTo_reaches {t : Nat} {s : State} (h : Scheduled s) :
    Post (runTo t s) (fun p => p.1.globalCyc = max s.globalCyc t) (fun _ => True) :=
  runLoop_reaches h (by omega)

/-- With its schedule ahead, a loop's result does not depend on a bound that is large enough. -/
theorem runLoop_enough {f1 f2 t : Nat} {s : State} {irq : Option Interrupt} (h : Scheduled s)
    (h1 : t - s.globalCyc ≤ f1) (h2 : t - s.globalCyc ≤ f2) : runLoop f1 t s irq = runLoop f2 t s irq := by
  induction f1 generalizing f2 s irq with
  | zero => rw [runLoop_stop (by omega), runLoop_stop (by omega)]
  | succ f ih =>
    by_cases ht : s.globalCyc < t
    · obtain ⟨g, rfl⟩ : ∃ g, f2 = g + 1 := ⟨f2 - 1, by omega⟩
      have hi := runIteration_scheduled h ht
      have hlt := h.lt_nextBoundary ht
      cases he : runIteration t s with
      | error e => rw [runLoop_step_error ht he, runLoop_step_error ht he]
      | ok p =>
        rw [he] at hi
        rw [runLoop_step_ok ht he, runLoop_step_ok ht he]
        exact ih hi.1 (by have := hi.2; omega) (by have := hi.2; omega)
    · rw [runLoop_stop (by omega), runLoop_stop (by omega)]

/-! ## One window -/

/-- Where no scheduled cycle is before the target, the first iteration reaches the target. -/
theorem nextBoundary_eq_target {t : Nat} {s : State} (h1 : t ≤ s.nextTickCyc) (h2 : t ≤ s.nextTransferCyc)
    (h3 : ∀ pc v, s.pending = some (pc, v) → t ≤ pc) : nextBoundary t s = t := by
  unfold nextBoundary
  cases hp : s.pending with
  | none => simp; omega
  | some q => have := h3 q.1 q.2 hp; simp; omega

/-- At a cycle where neither a transfer nor a pending write is due, the events are the tick's. -/
theorem eventsAt_tick {n : Nat} {s s1 : State} {i : Option Interrupt} (h : tickIfDue n s = .ok (s1, i))
    (h2 : n ≠ s1.nextTransferCyc) (h3 : ∀ v, s1.pending ≠ some (n, v)) : eventsAt n s = .ok (s1, i) := by
  unfold eventsAt
  rw [h]
  dsimp only
  unfold transferIfDue
  rw [if_neg h2]
  dsimp only
  unfold resolveIfDue
  cases hp : s1.pending with
  | none => rfl
  | some q =>
    dsimp only
    rw [if_neg (fun e => h3 q.2 (by rw [hp, ← e]))]

/-- A `run_to` whose first iteration reaches the target. -/
theorem runTo_one {t : Nat} {s s1 : State} {i : Option Interrupt} (hlt : s.globalCyc < t) (hn : nextBoundary t s = t)
    (he : eventsAt t (play s.globalCyc t s) = .ok (s1, i)) : runTo t s = .ok ({ s1 with globalCyc := t }, i) := by
  have : runIteration t s = .ok ({ s1 with globalCyc := t }, i) := by
    unfold runIteration
    rw [hn]
    dsimp only
    rw [he]
  unfold runTo
  rw [runLoop_step_ok hlt this, runLoop_stop (by exact Nat.le_refl _)]
  rfl

theorem runTo_one_error {t : Nat} {s s1 : State} (hlt : s.globalCyc < t) (hn : nextBoundary t s = t)
    (he : eventsAt t (play s.globalCyc t s) = .error s1) : runTo t s = .error s1 := by
  have : runIteration t s = .error s1 := by
    unfold runIteration
    rw [hn]
    dsimp only
    rw [he]
  unfold runTo
  rw [runLoop_step_error hlt this]

/-- Playing a window leaves the status byte. -/
theorem statusByte_play (a b : Nat) (s : State) : statusByte (play a b s) = statusByte s := by
  refine play_keeps (P := fun u => statusByte u = statusByte s) (fun u h => ?_) a b s rfl
  rw [← h]
  simp [statusByte, playCycle]

/-! ## The bound in every state -/

/-- A measure every iteration before the target lowers, in any state: how far each scheduled cycle is below the target,
and a further `t + 1` while a write is pending. -/
def roundsLeft (t : Nat) (s : State) : Nat :=
  (t - s.nextTickCyc) + (t - s.nextTransferCyc) + (if s.pending.isSome then t + 1 else 0)

theorem eventsAt_roundsLeft {t n : Nat} {s : State} (hn : n < t) (hdue : n = s.nextTickCyc ∨ n = s.nextTransferCyc ∨
    ∃ v, s.pending = some (n, v)) (h1 : n ≤ s.nextTickCyc) :
    Post (eventsAt n s) (fun p => roundsLeft t p.1 < roundsLeft t s) (fun _ => True) := by
  refine eventsAt_post
    (Q1 := fun s' _ => s'.nextTransferCyc = s.nextTransferCyc ∧ s'.pending = s.pending ∧
      (t - s'.nextTickCyc < t - s.nextTickCyc ∨ n ≠ s.nextTickCyc ∧ s'.nextTickCyc = s.nextTickCyc))
    (Q2 := fun s' _ => s'.pending = s.pending ∧
      ((t - s'.nextTickCyc) + (t - s'.nextTransferCyc) < (t - s.nextTickCyc) + (t - s.nextTransferCyc) ∨
        n ≠ s.nextTickCyc ∧ n ≠ s.nextTransferCyc ∧ s'.nextTickCyc = s.nextTickCyc ∧
          s'.nextTransferCyc = s.nextTransferCyc) ∧ t - s'.nextTransferCyc ≤ t - s.nextTransferCyc)
    (Q3 := fun s' _ => roundsLeft t s' < roundsLeft t s) ?_ ?_ ?_
  · refine tickIfDue_post (fun e => ⟨rfl, rfl, .inr ⟨e, rfl⟩⟩) (fun e => tickEvent_post (fun _ => ?_) (fun _ => trivial))
    have := tickDelta_pos s.mode (s.tick + 1)
    exact ⟨by simp, by simp, .inl (by simp; omega)⟩
  · rintro s1 i ⟨ht, hp, hk⟩
    refine transferIfDue_post (fun e => ⟨hp, ?_, by rw [ht]⟩)
      (fun e => transfer_post (fun _ => ⟨by simpa using hp, .inl ?_, ?_⟩) (fun _ => trivial))
    · rw [ht] at e ⊢
      rcases hk with hk | ⟨hk, hk'⟩
      · exact .inl (by omega)
      · exact .inr ⟨hk, e, hk', rfl⟩
    · have := clocksNeeded_pos (resampleCarry s1.carry s1.trace)
      simp; omega
    · have := clocksNeeded_pos (resampleCarry s1.carry s1.trace)
      simp; omega
  · rintro s2 i ⟨hp, hk, hk2⟩
    refine resolveIfDue_post (fun hno => ?_) (fun v hv => applyFrame_post (fun _ => ?_) (fun _ => trivial))
    · unfold roundsLeft
      rw [hp]
      rcases hk with hk | ⟨a, b, -, -⟩
      · omega
      · rcases hdue with e | e | ⟨v, e⟩
        · exact absurd e a
        · exact absurd e b
        · exact absurd (hp.trans e) (hno v)
    · have := tickDelta_pos (frameMode v) 0
      rw [hp] at hv
      simp [roundsLeft, hv]
      omega

/-- The bound of `runTo` is enough in every state: it ends at its target or past it, or in a fault. -/
theorem runTo_ends (t : Nat) (s : State) : Post (runTo t s) (fun p => t ≤ p.1.globalCyc) (fun _ => True) := by
  have key : ∀ fuel (s : State) irq, roundsLeft t s < fuel →
      Post (runLoop fuel t s irq) (fun p => t ≤ p.1.globalCyc) (fun _ => True) := by
    intro fuel
    induction fuel with
    | zero => intro s irq h; omega
    | succ f ih =>
      intro s irq h
      by_cases ht : s.globalCyc < t
      · have hb := nextBoundary_le t s
        have hi : Post (runIteration t s) (fun p => p.1.globalCyc = t ∨ roundsLeft t p.1 < roundsLeft t s)
            (fun _ => True) := by
          refine runIteration_post (Q := fun s' _ => s'.globalCyc = t ∨ roundsLeft t s' < roundsLeft t s) ?_
          by_cases hn : nextBoundary t s = t
          · exact Post.mono (Q := fun _ => True) (E := fun _ => True)
              (by cases eventsAt (nextBoundary t s) (play s.globalCyc (nextBoundary t s) s) <;> trivial)
              (fun _ _ => .inl hn) (fun _ _ => trivial)
          · have e : roundsLeft t s = roundsLeft t (play s.globalCyc (nextBoundary t s) s) := by simp [roundsLeft]
            rw [e]
            refine Post.mono (eventsAt_roundsLeft (by omega) ?_ (by simpa using hb.2.1))
              (fun p hp => .inr hp) (fun _ _ => trivial)
            rcases nextBoundary_cases t s with e | e | e | e
            · exact absurd e hn
            · exact .inl (by simpa using e)
            · exact .inr (.inl (by simpa using e))
            · exact .inr (.inr (by simpa using e))
        cases he : runIteration t s with
        | error e => rw [runLoop_step_error ht he]; trivial
        | ok p =>
          rw [he] at hi
          rw [runLoop_step_ok ht he]
          rcases hi with hi | hi
          · rw [runLoop_stop (by omega)]; exact Nat.le_of_eq hi.symm
          · exact ih _ _ (by omega)
      · rw [runLoop_stop (by omega)]; exact Nat.le_of_not_lt ht
  refine key _ s none ?_
  unfold roundsLeft
  split <;> omega

end Sys2Proof.Machine
end

