-- ==== Sys2Proof/Laws/Exec.lean ====
section
/-! SUPPORT. Everything one instruction, and one step, can do, said once: the plain register writes as one function, and
the induction over the instructions packaged. -/

namespace Sys2Proof.Machine

/-- The state a register write that only stores leaves; none for the `$17` write and the three other operations. -/
def plainWrite : Instr → State → Option State
  | .wrP1Ctrl v, s => some { s with p1 := s.p1.writeCtrl v }
  | .wrP1Sweep v, s => some { s with p1 := s.p1.writeSweep v }
  | .wrP1Tlo v, s => some { s with p1 := s.p1.writeTimerLow v }
  | .wrP1Thi v, s => some { s with p1 := s.p1.writeTimerHigh v }
  | .wrP2Ctrl v, s => some { s with p2 := s.p2.writeCtrl v }
  | .wrP2Sweep v, s => some { s with p2 := s.p2.writeSweep v }
  | .wrP2Tlo v, s => some { s with p2 := s.p2.writeTimerLow v }
  | .wrP2Thi v, s => some { s with p2 := s.p2.writeTimerHigh v }
  | .wrTriLin v, s => some { s with tri := s.tri.writeLinear v }
  | .wrTriTlo v, s => some { s with tri := s.tri.writeTimerLow v }
  | .wrTriThi v, s => some { s with tri := s.tri.writeTimerHigh v }
  | .wrNoiCtrl v, s => some { s with noi := s.noi.writeCtrl v }
  | .wrNoiPer v, s => some { s with noi := s.noi.writePeriod v }
  | .wrNoiLen v, s => some { s with noi := s.noi.writeLength v }
  | .wrEnable v, s => some (enableWrite v s)
  | .wrTriUnused _, s | .wrNoiUnused _, s | .wrDmc0 _, s | .wrDmc1 _, s | .wrDmc2 _, s | .wrDmc3 _, s
  | .wrUnused14 _, s | .wrUnused16 _, s => some s
  | .wrFrame _, _ | .run _, _ | .rdStatus _, _ | .qry, _ => none

/-- What an instruction returns on a faulted state (R340). -/
def idleResult : Instr → OpResult
  | .run _ | .rdStatus _ => .interrupt none
  | _ => .nothing

/-- The host operation an instruction is. -/
def operation (i : Instr) (s : State) : Except State (State × OpResult) :=
  match plainWrite i s with
  | some s' => .ok (s', .nothing)
  | none =>
    match i with
    | .wrFrame v => (writeFrame v s).map (fun s' => (s', .nothing))
    | .run t => runOperation t.toNat s
    | .rdStatus c => readStatus c.toNat s
    | _ => .ok (s, .cycle s.nextTickCyc)

/-- Every instruction is one host operation. -/
theorem exec_eq_perform (i : Instr) (s : State) : exec i s = perform (idleResult i) (operation i) s := by
  cases i <;> rfl

theorem idleResult_cases (i : Instr) : idleResult i = .nothing ∨ idleResult i = .interrupt none := by
  cases i <;> simp [idleResult]

theorem exec_plainWrite {i : Instr} {s s' : State} (h : s.fault = none) (hp : plainWrite i s = some s') :
    exec i s = .next (logResult .nothing s') := by
  rw [exec_eq_perform, perform_ok h (by unfold operation; rw [hp])]

/-- What a plain write can change: the channels alone. -/
theorem plainWrite_frame {i : Instr} {s s' : State} (hp : plainWrite i s = some s') :
    s' = { s with p1 := s'.p1, p2 := s'.p2, tri := s'.tri, noi := s'.noi } := by
  cases i <;> cases hp <;> rfl

/-- Everything an instruction can do. -/
theorem exec_cases {i : Instr} {s u : State} (h : exec i s = .next u) :
    (s.fault.isSome = true ∧ ∃ r, (r = .nothing ∨ r = .interrupt none) ∧ u = logResult r s) ∨
    (s.fault = none ∧
      ((∃ s', plainWrite i s = some s' ∧ u = logResult .nothing s') ∨
       (∃ v, i = .wrFrame v ∧ Post (writeFrame v s) (fun s' => u = logResult .nothing s')
          (fun s' => u = logResult .nothing s')) ∨
       (∃ t, i = .run t ∧ Post (runTo t.toNat s) (fun p => u = logResult (.interrupt p.2) p.1)
          (fun s' => u = logResult .nothing s')) ∨
       (∃ c, i = .rdStatus c ∧ Post (readStatus c.toNat s) (fun p => u = logResult p.2 p.1)
          (fun s' => u = logResult .nothing s')) ∨
       (i = .qry ∧ u = logResult (.cycle s.nextTickCyc) s))) := by
  rw [exec_eq_perform] at h
  rcases perform_cases h with ⟨hf, rfl⟩ | ⟨hf, s', r, ho, rfl⟩ | ⟨hf, s', ho, rfl⟩
  · exact .inl ⟨hf, _, idleResult_cases i, rfl⟩
  · refine .inr ⟨hf, ?_⟩
    unfold operation at ho
    split at ho
    · cases ho; exact .inl ⟨_, ‹_›, rfl⟩
    · split at ho
      · rename_i v _
        refine .inr (.inl ⟨v, rfl, ?_⟩)
        cases hw : writeFrame v s <;> rw [hw] at ho <;> cases ho
        rfl
      · rename_i t _
        refine .inr (.inr (.inl ⟨t, rfl, ?_⟩))
        unfold runOperation at ho
        cases hw : runTo t.toNat s <;> rw [hw] at ho <;> cases ho
        rfl
      · rename_i c _
        refine .inr (.inr (.inr (.inl ⟨c, rfl, ?_⟩)))
        rw [ho]; rfl
      · cases ho
        refine .inr (.inr (.inr (.inr ⟨?_, rfl⟩)))
        cases i <;> simp_all [plainWrite]
  · refine .inr ⟨hf, ?_⟩
    unfold operation at ho
    split at ho
    · cases ho
    · split at ho
      · rename_i v _
        refine .inr (.inl ⟨v, rfl, ?_⟩)
        cases hw : writeFrame v s <;> rw [hw] at ho <;> cases ho
        rfl
      · rename_i t _
        refine .inr (.inr (.inl ⟨t, rfl, ?_⟩))
        unfold runOperation at ho
        cases hw : runTo t.toNat s <;> rw [hw] at ho <;> cases ho
        rfl
      · rename_i c _
        refine .inr (.inr (.inr (.inl ⟨c, rfl, ?_⟩)))
        rw [ho]; rfl
      · cases ho

section keeps
variable {P : State → Prop}

/-- The induction over the instructions, packaged: what the plain writes, the `$17` write, an iteration of the loop and
the flag's clear keep, every instruction keeps. -/
theorem exec_keeps (hlog : ∀ r s, P s → P (logResult r s))
    (hstore : ∀ i s s', P s → plainWrite i s = some s' → P s')
    (hframe : ∀ v s, P s → s.fault = none → Post (writeFrame v s) P P)
    (hit : ∀ t s, P s → s.fault = none → s.globalCyc < t → t ≤ maxCycle →
      Post (runIteration t s) (fun p => P p.1) P)
    (hclear : ∀ s, P s → P (clearIrq s)) {i : Instr} {s u : State} (hs : P s) (h : exec i s = .next u) : P u := by
  have hrun : ∀ (t : Nat) s, t ≤ maxCycle → P s → s.fault = none →
      Post (runTo t s) (fun p => P p.1 ∧ p.1.fault = none) P := fun t s ht hs hf =>
    runTo_post (P := fun s => P s ∧ s.fault = none) (fun s hs hlt => by
      have h1 := hit t s hs.1 hs.2 hlt ht
      have h2 := runIteration_fault (t := t) hs.2
      cases hx : runIteration t s <;> rw [hx] at h1 h2
      · exact h1
      · exact ⟨h1, h2⟩) s ⟨hs, hf⟩
  have hmax : ∀ x : OperandWord, x.toNat ≤ maxCycle := fun x => by
    have := x.isLt; unfold maxCycle; omega
  rcases exec_cases h with ⟨-, r, -, rfl⟩ | ⟨hf, ⟨s', hp, rfl⟩ | ⟨v, rfl, hw⟩ | ⟨t, rfl, hr⟩ | ⟨c, rfl, hr⟩ | ⟨rfl, rfl⟩⟩
  · exact hlog _ _ hs
  · exact hlog _ _ (hstore _ _ _ hs hp)
  · have := hframe v s hs hf
    cases hx : writeFrame v s <;> rw [hx] at hw this <;> rw [show u = _ from hw] <;> exact hlog _ _ this
  · have := hrun _ s (hmax t) hs hf
    cases hx : runTo t.toNat s <;> rw [hx] at hr this <;> rw [show u = _ from hr]
    · exact hlog _ _ this
    · exact hlog _ _ this.1
  · have h1 := hrun (c.toNat - 1) s (Nat.le_trans (Nat.sub_le _ _) (hmax c)) hs hf
    unfold readStatus at hr
    cases hx : runTo (c.toNat - 1) s with
    | error e =>
      rw [hx] at hr h1
      rw [show u = _ from hr]; exact hlog _ _ h1
    | ok p =>
      rw [hx] at h1 hr
      have h2 := hrun c.toNat (clearIrq p.1) (hmax c) (hclear _ h1.1) h1.2
      dsimp only at hr
      cases hy : runTo c.toNat (clearIrq p.1) <;> rw [hy] at hr h2 <;> rw [show u = _ from hr]
      · exact hlog _ _ h2
      · exact hlog _ _ h2.1
  · exact hlog _ _ hs

/-- The induction over the steps: taking a command off the stream, raising a fault and every instruction keep `P`. -/
theorem step_keeps (hlog : ∀ r s, P s → P (logResult r s)) (hissue : ∀ rest s, P s → P (s.issued rest))
    (hraise : ∀ k n s, P s → P (raiseFault k n s)) (hexec : ∀ i s u, P s → exec i s = .next u → P u)
    {s u : State} (hs : P s) (h : step s = .next u) : P u := by
  unfold step stepQueue at h
  split at h
  · cases h; exact hs
  · unfold runDecoded at h
    split at h
    · exact hexec _ _ _ (hissue _ _ hs) h
    · rw [execWriteOutside] at h
      exact perform_keeps hlog (hissue _ _ hs) (fun _ => by exact hraise _ _ _ (hissue _ _ hs)) h
    · rw [execReadOutside] at h
      exact perform_keeps hlog (hissue _ _ hs) (fun _ => by exact hraise _ _ _ (hissue _ _ hs)) h
    · cases h
    · cases h

end keeps

end Sys2Proof.Machine
end

