-- ==== Sys2Proof/Laws/PerInstr.lean ====
section
/-! SUPPORT. The family EncodeLength: an instruction's encoding has the length its own command word tells (R111). -/

namespace Sys2Proof.Laws.EncodeLength

/-- The encoding of `i` has as many bytes as a decoder reads off `K` of its word. -/
def Statement (i : Instr) : Prop := (encode i).length = commandBytes i.word

/-- The length of a write's encoding. -/
theorem write_length (i : Instr) (a : Offset) (v : Byte) (hw : i.word = writeWord a v) (ho : i.operand = none) :
    Statement i := by
  simp [Statement, encode, hw, ho, wordBytes, commandBytes]

theorem wrP1Ctrl (v : Byte) : Statement (.wrP1Ctrl v) := write_length _ _ v rfl rfl
theorem wrP1Sweep (v : Byte) : Statement (.wrP1Sweep v) := write_length _ _ v rfl rfl
theorem wrP1Tlo (v : Byte) : Statement (.wrP1Tlo v) := write_length _ _ v rfl rfl
theorem wrP1Thi (v : Byte) : Statement (.wrP1Thi v) := write_length _ _ v rfl rfl
theorem wrP2Ctrl (v : Byte) : Statement (.wrP2Ctrl v) := write_length _ _ v rfl rfl
theorem wrP2Sweep (v : Byte) : Statement (.wrP2Sweep v) := write_length _ _ v rfl rfl
theorem wrP2Tlo (v : Byte) : Statement (.wrP2Tlo v) := write_length _ _ v rfl rfl
theorem wrP2Thi (v : Byte) : Statement (.wrP2Thi v) := write_length _ _ v rfl rfl
theorem wrTriLin (v : Byte) : Statement (.wrTriLin v) := write_length _ _ v rfl rfl
theorem wrTriUnused (v : Byte) : Statement (.wrTriUnused v) := write_length _ _ v rfl rfl
theorem wrTriTlo (v : Byte) : Statement (.wrTriTlo v) := write_length _ _ v rfl rfl
theorem wrTriThi (v : Byte) : Statement (.wrTriThi v) := write_length _ _ v rfl rfl
theorem wrNoiCtrl (v : Byte) : Statement (.wrNoiCtrl v) := write_length _ _ v rfl rfl
theorem wrNoiUnused (v : Byte) : Statement (.wrNoiUnused v) := write_length _ _ v rfl rfl
theorem wrNoiPer (v : Byte) : Statement (.wrNoiPer v) := write_length _ _ v rfl rfl
theorem wrNoiLen (v : Byte) : Statement (.wrNoiLen v) := write_length _ _ v rfl rfl
theorem wrDmc0 (v : Byte) : Statement (.wrDmc0 v) := write_length _ _ v rfl rfl
theorem wrDmc1 (v : Byte) : Statement (.wrDmc1 v) := write_length _ _ v rfl rfl
theorem wrDmc2 (v : Byte) : Statement (.wrDmc2 v) := write_length _ _ v rfl rfl
theorem wrDmc3 (v : Byte) : Statement (.wrDmc3 v) := write_length _ _ v rfl rfl
theorem wrUnused14 (v : Byte) : Statement (.wrUnused14 v) := write_length _ _ v rfl rfl
theorem wrEnable (v : Byte) : Statement (.wrEnable v) := write_length _ _ v rfl rfl
theorem wrUnused16 (v : Byte) : Statement (.wrUnused16 v) := write_length _ _ v rfl rfl
theorem wrFrame (v : Byte) : Statement (.wrFrame v) := write_length _ _ v rfl rfl
theorem rdStatus (x : OperandWord) : Statement (.rdStatus x) := by
  show 10 = commandBytes 0x5500
  decide
theorem run (x : OperandWord) : Statement (.run x) := by
  show 10 = commandBytes 0x8000
  decide
theorem qry : Statement .qry := rfl

end Sys2Proof.Laws.EncodeLength
end

