-- ==== Sys2Proof/Tests/Slice0.lean ====
section
/-! SUPPORT. Tests. Expected values come from spec/30_encoding.md, the worked examples of the rules named, and the
vectors of spec/95_test_vectors.md (named by their ids). The last section shows, for every obligation that has
hypotheses, a state and operands that meet them. -/

namespace Sys2Proof.Tests

open Sys2Proof Sys2Proof.Machine

/-! ## Helpers -/

/-- The next state of an outcome, if it is one. -/
def after (o : Host.Outcome State Fault Refusal) : Option State :=
  match o with
  | .next s => some s
  | _ => none

/-- The refusal of an outcome, if it is one. -/
def refusal (o : Host.Outcome State Fault Refusal) : Option Refusal :=
  match o with
  | .refused r => some r
  | _ => none

/-- The state at cycle `g` with no event due before cycle 7459, all else as at power-on. -/
def quiet (g : Nat) : State := { State.reset with globalCyc := g, nextTickCyc := 7459, nextTransferCyc := 10000 }

/-- A faulted state. -/
def faulted : State := raiseFault .addressOutOfWindow 0x18 (quiet 0)

/-! ## WellFormed: a word that fails each check (vector X4) -/

theorem test_every_term_well_formed : (Instr.wrFrame 0xFF).wellFormed = true ∧ (Instr.run 0).wellFormed = true := by
  decide

theorem test_ill_formed_reserved_bit : reservedClear 0x2000 = false ∧ legalWord 0x2000 = false ∧
    decode [0x00, 0x20] = .illegal .reservedBit := by decide

theorem test_ill_formed_read_data : readDataZero 0x5501 = false ∧ legalWord 0x5501 = false ∧
    decode [0x01, 0x55] = .illegal .readData := by decide

theorem test_ill_formed_run : runWordExact 0x8001 = false ∧ legalWord 0x8001 = false ∧
    decode [0x01, 0x80] = .illegal .runBits := by decide

theorem test_ill_formed_query : queryWordExact 0xC100 = false ∧ legalWord 0xC100 = false ∧
    decode [0x00, 0xC1] = .illegal .queryBits := by decide

theorem test_legal_words : legalWord 0x00FF = true ∧ legalWord 0x5500 = true ∧ legalWord 0x8000 = true ∧
    legalWord 0xC000 = true := by decide

/-! ## Decode: each constructor from its word, written bit by bit as KK Z AAAAA DDDDDDDD (R110, R114 to R117) -/

theorem test_decode_pulse1 :
    decodeTableWord 16 0b0000000010111111 = some (.wrP1Ctrl 0xBF) ∧
    decodeTableWord 16 0b0000000110011001 = some (.wrP1Sweep 0x99) ∧
    decodeTableWord 16 0b0000001011111101 = some (.wrP1Tlo 0xFD) ∧
    decodeTableWord 16 0b0000001100011000 = some (.wrP1Thi 0x18) := by decide

theorem test_decode_pulse2 :
    decodeTableWord 16 0b0000010000111111 = some (.wrP2Ctrl 0x3F) ∧
    decodeTableWord 16 0b0000010110001001 = some (.wrP2Sweep 0x89) ∧
    decodeTableWord 16 0b0000011000000001 = some (.wrP2Tlo 0x01) ∧
    decodeTableWord 16 0b0000011100001001 = some (.wrP2Thi 0x09) := by decide

theorem test_decode_triangle :
    decodeTableWord 16 0b0000100001111111 = some (.wrTriLin 0x7F) ∧
    decodeTableWord 16 0b0000100111111111 = some (.wrTriUnused 0xFF) ∧
    decodeTableWord 16 0b0000101000000010 = some (.wrTriTlo 0x02) ∧
    decodeTableWord 16 0b0000101111111000 = some (.wrTriThi 0xF8) := by decide

theorem test_decode_noise :
    decodeTableWord 16 0b0000110000110000 = some (.wrNoiCtrl 0x30) ∧
    decodeTableWord 16 0b0000110111111111 = some (.wrNoiUnused 0xFF) ∧
    decodeTableWord 16 0b0000111010000111 = some (.wrNoiPer 0x87) ∧
    decodeTableWord 16 0b0000111100011000 = some (.wrNoiLen 0x18) := by decide

theorem test_decode_stub :
    decodeTableWord 16 0b0001000011111111 = some (.wrDmc0 0xFF) ∧
    decodeTableWord 16 0b0001000101111111 = some (.wrDmc1 0x7F) ∧
    decodeTableWord 16 0b0001001000000001 = some (.wrDmc2 0x01) ∧
    decodeTableWord 16 0b0001001100000000 = some (.wrDmc3 0x00) ∧
    decodeTableWord 16 0b0001010000000010 = some (.wrUnused14 0x02) ∧
    decodeTableWord 16 0b0001011000000001 = some (.wrUnused16 0x01) := by decide

theorem test_decode_control :
    decodeTableWord 16 0b0001010100000001 = some (.wrEnable 0x01) ∧
    decodeTableWord 16 0b0001011110000000 = some (.wrFrame 0x80) ∧
    decodeTableWord 16 0b0101010100000000 = some (.rdStatus 0) ∧
    decodeTableWord 16 0b1000000000000000 = some (.run 0) ∧
    decodeTableWord 16 0b1100000000000000 = some .qry := by decide

/-- Vector P1: the operands `0x7487` and `0x7488` follow their words. -/
theorem test_decode_operands :
    decode [0x00, 0x80, 0x87, 0x74, 0, 0, 0, 0, 0, 0, 0x01] = .instr (.run 29831) [0x01] ∧
    decode [0x00, 0x55, 0x88, 0x74, 0, 0, 0, 0, 0, 0] = .instr (.rdStatus 29832) [] := by decide

theorem test_encode_operand :
    encode (.run 0x0123456789ABCDEF) = [0x00, 0x80, 0xEF, 0xCD, 0xAB, 0x89, 0x67, 0x45, 0x23, 0x01] := by decide

/-- R114, R115, X2, X3: the first offsets the block faults on, on both sides of `$15`. -/
theorem test_decode_outside :
    decode [0x00, 0x18] = .writeOutside 0x18 [] ∧ decode [0xFF, 0x1F] = .writeOutside 0x1F [] ∧
    decode [0x00, 0x50, 5, 0, 0, 0, 0, 0, 0, 0] = .readOutside 0x10 [] ∧
    decode [0x00, 0x54, 5, 0, 0, 0, 0, 0, 0, 0] = .readOutside 0x14 [] ∧
    decode [0x00, 0x56, 5, 0, 0, 0, 0, 0, 0, 0] = .readOutside 0x16 [] := by decide

theorem test_decode_truncated : decode [] = .truncated ∧ decode [0x00] = .truncated ∧
    decode [0x00, 0x80, 1, 2, 3] = .truncated := by decide

/-- R139, R19: the assembler's lines and the host's address decode. -/
theorem test_assembler : AsmLine.bytes (.wr RegAlias.frame.offset 0x80) = [0x80, 0x17] ∧
    AsmLine.bytes (.wr RegAlias.noiCtrl.offset 0x30) = [0x30, 0x0C] ∧
    AsmLine.bytes (.rd15 1) = [0x00, 0x55, 1, 0, 0, 0, 0, 0, 0, 0] ∧ AsmLine.bytes .qry = [0x00, 0xC0] := by decide

theorem test_cpu_to_offset : cpuToOffset 0x4015 = some 0x15 ∧ cpuToOffset 0x4017 = some 0x17 ∧
    cpuToOffset 0x4018 = none ∧ cpuToOffset 0x3FFF = none := by decide

/-! ## The parameter tables (R12 to R15) -/

theorem test_table_lengths : lengthTable.length = 32 ∧ dutyTable.map List.length = [8, 8, 8, 8] ∧
    triangleSequence.length = 32 ∧ noisePeriodTable.length = 16 ∧ 1 ≤ (lengthEntry 0).toNat ∧
    (∀ i : BitVec 4, 1 ≤ noisePeriod i) := by decide

theorem test_duty_three_negates_one : ∀ k : BitVec 3, dutyBit 3 k = !dutyBit 1 k := by decide

/-! ## Steps: the host's command is fetched and run from the state after reset -/

theorem test_step_enable :
    (after (step (State.reset.withFetchWord 16 0x1501))).map (fun s => (s.p1.len.enabled, s.p2.len.enabled, s.queue)) =
      some (true, false, []) := by decide

theorem test_step_run_zero :
    (after (step (State.reset.withFetchWord 16 0x8000))).map (fun s => (s.globalCyc, s.results)) =
      some (0, [.interrupt none]) := by decide

/-- X2: the word `0x1800` faults, and the next word is a no-op. -/
theorem test_step_outside_window :
    ((after (step ((State.reset.withFetchWord 16 0x1501).withFetchWord 16 0x1800))).bind (fun s => after (step s))).map
      (fun s => (s.fault, s.p1.len.enabled, s.results)) = some (some .addressOutOfWindow, false, [.nothing, .nothing]) := by
  decide

/-- X3: the word `0x5000` with operand 5 faults before it runs anything. -/
theorem test_step_read_not_served :
    (after (step (State.reset.withFetchWord 80 (0x5000 + 5 * 65536)))).map (fun s => (s.fault, s.globalCyc)) =
      some (some .readNotServed, 0) := by decide

/-- X4, R344: an illegal word is refused. -/
theorem test_step_illegal : refusal (step (State.reset.withFetchWord 16 0x2000)) =
    some (.illegalCommand .reservedBit) := by decide

theorem test_catchup : (after (catchUp { quiet 10 with nextTickCyc := 5 })).map (fun s => s.results) =
      some [.cycle 5, .interrupt none] ∧
    (after (catchUp faulted)).map (fun s => s.results) = some [.nothing] := by decide

/-! ## Pulse writes (worked examples of R220 to R223) -/

theorem test_pulse_ctrl : (Pulse.reset false).writeCtrl 0xBF =
    { Pulse.reset false with duty := 2, env := { Envelope.reset with halt := true, constVol := true, vol := 15 } } := by
  decide

/-- `0x99`: enabled, divider period 1, negate, shift 1. -/
theorem test_pulse_sweep : (Pulse.reset true).writeSweep 0x99 =
    { Pulse.reset true with sweepEn := true, sweepPeriod := 1, negate := true, shift := 1, sweepReload := true } := by
  decide

theorem test_pulse_timer : (((Pulse.reset false).writeTimerHigh 0x07).writeTimerLow 0xFD).period = 0x7FD := by decide

/-- L1: the top register of a disabled channel restarts it and loads nothing. -/
theorem test_pulse_top_disabled : { Pulse.reset false with dutyPos := 5, timerCtr := 9 }.writeTimerHigh 0x09 =
    { Pulse.reset false with period := 0x100, timerCtr := 9, env := { Envelope.reset with start := true } } := by decide

/-- L2, S7: an enabled channel loads entry 1 (254) and entry 0 (10). -/
theorem test_pulse_top_enabled :
    ({ Pulse.reset false with len := ⟨true, 0⟩ }.writeTimerHigh 0x08).len.count = 254 ∧
    ({ Pulse.reset false with len := ⟨true, 0⟩ }.writeTimerHigh 0x00).len.count = 10 := by decide

/-- W1, W2, W3, W4, W6, W7, W8. -/
theorem test_sweep_target :
    { Pulse.reset false with period := 0x100, shift := 1, negate := true }.sweepTarget = 0x07F ∧
    { Pulse.reset true with period := 0x100, shift := 1, negate := true }.sweepTarget = 0x080 ∧
    { Pulse.reset true with period := 0x100, shift := 1 }.sweepTarget = 0x180 ∧
    { Pulse.reset false with period := 0x400 }.sweepTarget = 0x800 ∧
    { Pulse.reset false with period := 0x7FF, shift := 7 }.sweepTarget = 0x80E ∧
    { Pulse.reset false with period := 0x555, shift := 1 }.sweepTarget = 0x7FF ∧
    { Pulse.reset false with period := 0x008, negate := true }.sweepTarget = -1 := by decide

theorem test_muted :
    { Pulse.reset false with period := 0x007, negate := true }.muted = true ∧
    { Pulse.reset false with period := 0x400 }.muted = true ∧
    { Pulse.reset false with period := 0x555, shift := 1 }.muted = false ∧
    { Pulse.reset false with period := 0x008, negate := true }.muted = false := by decide

/-- W9: the period goes 0x100, 0x080, 0x040. -/
theorem test_sweep_negate :
    let p : Pulse := { Pulse.reset true with
      period := 0x100, sweepEn := true, negate := true, shift := 1, sweepReload := true }
    p.lengthClock = { p with period := 0x080, sweepReload := false } ∧ p.lengthClock.lengthClock.period = 0x040 := by
  decide

/-- W10: the divider of period 2. -/
theorem test_sweep_divider :
    let p : Pulse := { Pulse.reset false with
      period := 0x100, sweepEn := true, sweepPeriod := 2, shift := 1, sweepReload := true }
    [1, 2, 3, 4].map (fun k => ((Pulse.lengthClock^[k] p).period.toNat, (Pulse.lengthClock^[k] p).sweepDivider.toNat)) =
      [(0x180, 2), (0x180, 1), (0x180, 0), (0x240, 2)] := by decide

/-- W11: period 0, a duty step every 2 cycles. -/
theorem test_pulse_timer_steps : (Pulse.stepTimer^[8] (Pulse.reset false)).dutyPos = 4 := by decide

/-- W13. -/
theorem test_pulse_level :
    ([0, 1, 2, 3, 4, 5, 6, 7] : List (BitVec 3)).map (fun k => { Pulse.reset false with
      len := ⟨true, 10⟩, duty := 2, env := { Envelope.reset with constVol := true, vol := 15 }, period := 0x100
      dutyPos := k }.level) = [0, 15, 15, 15, 15, 0, 0, 0] := by decide

/-! ## Triangle (R260 to R263, T3, T5) -/

theorem test_triangle_linear_write : Triangle.reset.writeLinear 0x81 =
    { Triangle.reset with control := true, reloadVal := 1 } := by decide

theorem test_triangle_top : { Triangle.reset with len := ⟨true, 0⟩, seqPos := 7, period := 0x0AA }.writeTimerHigh 0xFB =
    { Triangle.reset with len := ⟨true, 30⟩, linearReload := true, period := 0x3AA } := by decide

theorem test_linear_counter :
    let t := { Triangle.reset with linearReload := true, reloadVal := 5 }
    t.envelopeClock = { t with linear := 5, linearReload := false } ∧ t.envelopeClock.envelopeClock.linear = 4 := by
  decide

/-- T4, T5: the held level. -/
theorem test_triangle_held : (Triangle.stepTimer^[4] Triangle.reset).seqPos = 0 ∧ Triangle.reset.level = 15 := by decide

/-! ## Noise (R280 to R283, N1 to N9) -/

theorem test_noise_period_write : Noise.reset.writePeriod 0x87 =
    { Noise.reset with mode := .short, periodIdx := 7 } := by decide

/-- N9. -/
theorem test_noise_length_write : { Noise.reset with len := ⟨true, 0⟩, timerCtr := 3 }.writeLength 0x18 =
    { Noise.reset with len := ⟨true, 2⟩, timerCtr := 3, env := { Envelope.reset with start := true } } := by decide

/-- N1 to N5. -/
theorem test_lfsr : shiftLfsr .long 0x0001 = 0x4000 ∧ shiftLfsr .long 0x4000 = 0x2000 ∧
    shiftLfsr .short 0x0001 = 0x4000 ∧ shiftLfsr .long 0x0002 = 0x4001 ∧ shiftLfsr .short 0x0040 = 0x4020 := by decide

/-- N6: shifts at the first and the fifth cycle. -/
theorem test_noise_timer : (Noise.stepTimer^[4] Noise.reset).lfsr = 0x4000 ∧
    (Noise.stepTimer^[5] Noise.reset).lfsr = 0x2000 := by decide

/-- N7, N8. -/
theorem test_noise_level :
    let n : Noise := { Noise.reset with len := ⟨true, 10⟩, env := { Envelope.reset with constVol := true, vol := 7 } }
    n.level = 0 ∧ { n with lfsr := 2 }.level = 7 := by decide

/-! ## Enable, length counter, envelope (L3 to L10, E1 to E4) -/

/-- L10, L3, L8: bits 7:4 are ignored; a clear bit zeroes; a set bit loads nothing. -/
theorem test_enable :
    (enableWrite 0xF0 (quiet 0)).noi.len = ⟨false, 0⟩ ∧
    (enableWrite 0xF1 { quiet 0 with p1 := { Pulse.reset false with len := ⟨true, 254⟩ } }).p1.len = ⟨true, 254⟩ ∧
    (enableWrite 0xFE { quiet 0 with p1 := { Pulse.reset false with len := ⟨true, 254⟩ } }).p1.len = ⟨false, 0⟩ := by
  decide

/-- L6, L7, L4. -/
theorem test_length_clock : LengthUnit.clock false ⟨true, 1⟩ = ⟨true, 0⟩ ∧
    LengthUnit.clock false ⟨true, 0⟩ = ⟨true, 0⟩ ∧ LengthUnit.clock true ⟨true, 254⟩ = ⟨true, 254⟩ := by decide

/-- E1. -/
theorem test_envelope :
    (List.range 12).map (fun k =>
      let e := Envelope.clock^[k + 1] { Envelope.reset with vol := 2, start := true }
      (e.divider.toNat, e.decay.toNat)) =
    [(2, 15), (1, 15), (0, 15), (2, 14), (1, 14), (0, 14), (2, 13), (1, 13), (0, 13), (2, 12), (1, 12), (0, 12)] := by
  decide

/-- E2, E3, E4. -/
theorem test_envelope_loop :
    (Envelope.clock^[17] { Envelope.reset with halt := true, start := true }).decay = 15 ∧
    (Envelope.clock^[17] { Envelope.reset with start := true }).decay = 0 ∧
    { Envelope.reset with constVol := true, vol := 9, decay := 4 }.level = 9 := by decide

/-! ## The frame register, `run_to`, the status read (J1, J3, J4, J6, F1, F2, F5, F9, R1, R5, M1) -/

/-- J1: on an odd cycle the write waits; the query still returns the old schedule. -/
theorem test_frame_odd : (after (exec (.wrFrame 0x80) (quiet 1))).map (fun s => (s.pending, s.mode, s.nextTickCyc)) =
    some (some (2, 0x80), .fourStep, 7459) := by decide

/-- J6, on an even cycle: bits 5:0 are ignored. -/
theorem test_frame_even :
    (after (exec (.wrFrame 0x3F) (quiet 4))).map (fun s => (s.pending, s.mode, s.suppress, s.tick, s.nextTickCyc)) =
      some (none, .fourStep, false, 0, 7463) := by decide

/-- J4 (after the first write, the second at the same odd cycle), then `run_to(2)` applies it. -/
theorem test_frame_resolves :
    ((after (exec (.wrFrame 0x00) { quiet 1 with pending := some (2, 0x80) })).bind
      (fun s => after (exec (.run 2) s))).map
      (fun s => (s.globalCyc, s.pending, s.mode, s.nextTickCyc)) = some (2, none, .fourStep, 7461) := by decide

/-- R343, R340: a pending write resolved at the last even cycle has no 64-bit next tick: the clock stays. -/
theorem test_frame_resolution_overflows :
    (after (exec (.run 0xFFFFFFFFFFFFFFFE) { quiet (maxCycle - 2) with
      nextTickCyc := maxCycle
      nextTransferCyc := maxCycle
      tick := 3
      pending := some (maxCycle - 1, 0x00) })).map
      (fun s => (s.fault, s.tick, s.pending, s.globalCyc, s.results)) =
      some (some .cycleOverflow, 0, none, maxCycle - 2, [.nothing]) := rfl

/-- J3: the flag is cleared at the write, on an odd cycle. -/
theorem test_frame_clears_flag :
    (after (exec (.wrFrame 0x40) { quiet 1 with irqFlag := true })).map (fun s => (s.irqFlag, s.suppress)) =
      some (false, false) := by decide

/-- F1, M1: `run_to` of a few cycles plays them and does no more. -/
theorem test_run : (after (exec (.run 3) (quiet 0))).map
    (fun s => (s.globalCyc, s.tick, s.trace.length, s.trace.head?, s.results)) =
      some (3, 0, 3, some ⟨0, 0, 15, 0⟩, [.interrupt none]) := by decide

/-- F9. -/
theorem test_query : (after (exec .qry State.reset)).map (fun s => s.results) = some [.cycle 7459] := by decide

/-- R1, R5: the byte of power-on, and of four active channels with the flag set. -/
theorem test_status_byte :
    (after (exec (.rdStatus 0) State.reset)).map (fun s => s.results) = some [.status none 0x00] ∧
    (let l : LengthUnit := ⟨true, 254⟩
     statusByte { quiet 0 with
      irqFlag := true
      p1 := { Pulse.reset false with len := l }
      p2 := { Pulse.reset true with len := l }
      tri := { Triangle.reset with len := l }
      noi := { Noise.reset with len := l } }) = 0x4F := by decide

/-- R3: the read that starts with the flag set reports it and clears it. -/
theorem test_status_clears :
    (after (exec (.rdStatus 2) { quiet 0 with irqFlag := true })).map (fun s => (s.irqFlag, s.globalCyc, s.results)) =
      some (false, 2, [.status none 0x40]) := by decide

/-! ## Writes without effect (X1), and faults (R340) -/

theorem test_ignored_writes (i : Instr)
    (h : i ∈ [.wrDmc0 0xFF, .wrDmc1 0x01, .wrDmc2 0x02, .wrDmc3 0x00, .wrUnused14 0x02, .wrUnused16 0x01,
      .wrTriUnused 0xFF, .wrNoiUnused 0xFF]) :
    exec i State.reset = .next { State.reset with results := [.nothing] } := by
  simp only [List.mem_cons, List.not_mem_nil, or_false] at h
  rcases h with rfl | rfl | rfl | rfl | rfl | rfl | rfl | rfl <;> rfl

theorem test_faulted : (after (exec (.wrEnable 0x0F) faulted)).map (fun s => (s.p1.len.enabled, s.results)) =
      some (false, [.nothing]) ∧
    (after (exec (.run 40000) faulted)).map (fun s => (s.globalCyc, s.results)) = some (0, [.interrupt none]) := by
  decide

/-- R343: at the last cycle an odd `$17` write raises `CycleOverflow`. -/
theorem test_overflow : (after (exec (.wrFrame 0x00) (quiet maxCycle))).map (fun s => (s.fault, s.pending)) =
    some (some .cycleOverflow, none) := by decide

/-! ## Witnesses: the hypotheses of each obligation that has some -/

theorem witness_decodeOfEncode : (Instr.rdStatus 29832).wellFormed = true := by decide

theorem witness_onlyItsEncoding : decode [0x01, 0x15, 0xFF] = .instr (.wrEnable 0x01) [0xFF] := by decide

theorem witness_stepRuns : decode (quiet 0 |>.withFetchWord 16 0x1501).queue = .instr (.wrEnable 0x01) [] ∧
    (Instr.wrEnable 0x01).wellFormed = true := by decide

theorem witness_stepWithout : (quiet 0).queue = [] ∧ legalWord 0x8001 = false ∧
    (quiet 0 |>.withFetchWord 16 0x8001).queue = wordBytes 0x8001 ++ operandBytes 0 := by decide

/-- Both ends of the range `$18`–`$1F`. -/
theorem witness_writeOutside : 0x18 ≤ (0x18 : Offset).toNat ∧ 0x18 ≤ (0x1F : Offset).toNat ∧ (quiet 0).fault = none ∧
    (quiet 0 |>.withFetchWord 16 0x1F07).queue = wordBytes (writeWord 0x1F 0x07) ++ [] := by decide

/-- The offsets on both sides of `$15`, and 0. -/
theorem witness_readOutside : (0x14 : Offset) ≠ 0x15 ∧ (0x16 : Offset) ≠ 0x15 ∧ (0 : Offset) ≠ 0x15 ∧
    (quiet 0).fault = none ∧
    (quiet 0 |>.withFetchWord 80 (0x5400 + 5 * 65536)).queue =
      wordBytes ((2 : BitVec 3) ++ (0x14 : Offset) ++ (0 : Byte)) ++ operandBytes 5 ++ [] := by decide

/-- The register writes (pulse, triangle, noise, unused, enable), the query, the status read and the frame
statements ask for no fault. -/
theorem witness_no_fault : State.reset.fault = none ∧ (quiet 4000).fault = none := by decide

/-- Every bit a clause of the enable statements asks to be set, and clear. -/
theorem witness_enable_bits : (0x0F : Byte).getLsbD 0 = true ∧ (0x0F : Byte).getLsbD 1 = true ∧
    (0x0F : Byte).getLsbD 2 = true ∧ (0x0F : Byte).getLsbD 3 = true ∧ (0xF0 : Byte).getLsbD 0 = false ∧
    (0xF0 : Byte).getLsbD 1 = false ∧ (0xF0 : Byte).getLsbD 2 = false ∧ (0xF0 : Byte).getLsbD 3 = false := by decide

/-- Cycle 0, the last even cycle whose next tick fits, and the last even cycle, whose next tick does not. -/
theorem witness_frameFourStep : (quiet 0).fault = none ∧ (quiet 0).globalCyc % 2 = 0 ∧
    (quiet (maxCycle - 7459)).globalCyc % 2 = 0 ∧ (quiet (maxCycle - 7459)).globalCyc + 7459 ≤ maxCycle ∧
    (quiet (maxCycle - 1)).globalCyc % 2 = 0 ∧ ¬ (quiet (maxCycle - 1)).globalCyc + 7459 ≤ maxCycle ∧
    (0x40 : Byte).getLsbD 7 = false ∧ (0x00 : Byte).getLsbD 7 = false := by decide

/-- An even cycle with bit 7 set; and one so late that the reschedule cannot fit. -/
theorem witness_frameFiveStep : (quiet 2).fault = none ∧ (quiet 2).globalCyc % 2 = 0 ∧ (0x80 : Byte).getLsbD 7 = true ∧
    (quiet (maxCycle + 1)).globalCyc % 2 = 0 ∧
    ¬ (quiet (maxCycle + 1)).globalCyc + tickDelta .fiveStep 0 ≤ maxCycle :=
  ⟨by decide, by decide, by decide, by decide, by show ¬ maxCycle + 1 + tickDelta .fiveStep 0 ≤ maxCycle; omega⟩

theorem witness_frameOdd : (quiet 1).fault = none ∧ (quiet 1).globalCyc % 2 = 1 ∧ (quiet 1).globalCyc < maxCycle ∧
    (quiet maxCycle).globalCyc % 2 = 1 ∧ (quiet maxCycle).globalCyc = maxCycle := by decide

/-- A start; and without one, the divider at both ends, with the decay level and the loop flag either way. -/
theorem witness_envelope : ({ Envelope.reset with vol := 15, start := true }).start = true ∧
    Envelope.reset.start = false ∧ 0 ≤ Envelope.reset.divider.toNat ∧
    (let e := { Envelope.reset with divider := 15, decay := 15, halt := true }
     e.start = false ∧ 15 ≤ e.divider.toNat ∧ 0 < e.decay.toNat ∧ e.halt = true) := by decide

/-- The least period the sweep writes from, and the greatest target. -/
theorem witness_sweep :
    (let p : Pulse := { Pulse.reset false with period := 8, sweepEn := true, negate := true, shift := 1 }
     p.sweepDivider = 0 ∧ p.sweepEn = true ∧ p.shift ≠ 0 ∧ 8 ≤ p.period.toNat ∧ p.sweepTarget ≤ 0x7FF ∧
      p.sweepClock.period = 3) ∧
    (let p : Pulse := { Pulse.reset false with period := 0x555, sweepEn := true, shift := 1 }
     p.sweepTarget = 0x7FF ∧ p.sweepClock.period = 0x7FF) ∧
    ¬ 8 ≤ ({ Pulse.reset false with period := 7 }).period.toNat := by decide

/-- The timer statements' expired timer, with both cases of the triangle's gate; and a running one, at both ends. -/
theorem witness_timers : { Pulse.reset true with period := 0x7FF }.timerCtr = 0 ∧
    { Triangle.reset with len := ⟨true, 1⟩, linear := 1 }.timerCtr = 0 ∧ Triangle.reset.timerCtr = 0 ∧
    { Noise.reset with mode := .short, periodIdx := 15 }.timerCtr = 0 ∧ 0 ≤ Noise.reset.timerCtr ∧
    4095 ≤ { Pulse.reset true with timerCtr := 4095 }.timerCtr ∧
    2047 ≤ { Triangle.reset with timerCtr := 2047 }.timerCtr ∧ 4067 ≤ { Noise.reset with timerCtr := 4067 }.timerCtr := by
  decide

theorem witness_play : 3 ≤ 3 ∧ 3 ≤ 7459 := by decide

theorem witness_runNotAhead : (quiet 5).fault = none ∧ (5 : OperandWord).toNat ≤ (quiet 5).globalCyc ∧
    (0 : OperandWord).toNat ≤ (quiet 5).globalCyc := by decide

/-- The last cycle before the tick, with a write pending after it. -/
theorem witness_runNoEvent :
    let s := { quiet 7455 with pending := some (7460, 0x80) }
    s.fault = none ∧ s.globalCyc < (7458 : OperandWord).toNat ∧ (7458 : OperandWord).toNat < s.nextTickCyc ∧
    (7458 : OperandWord).toNat < s.nextTransferCyc ∧
    ∀ pc v, s.pending = some (pc, v) → (7458 : OperandWord).toNat < pc := by
  refine ⟨rfl, by decide, by decide, by decide, fun pc v h => ?_⟩
  cases h
  decide

/-- The tick alone, the transfer alone, and all three events at the even cycle 7460. -/
theorem witness_runToTick :
    (let s := quiet 7455
     s.fault = none ∧ s.globalCyc < (7459 : OperandWord).toNat ∧ (7459 : OperandWord).toNat = s.nextTickCyc ∧
      (7459 : OperandWord).toNat < s.nextTransferCyc ∧ s.pending = none) ∧
    (let s := { quiet 7455 with nextTransferCyc := 7456 }
     s.fault = none ∧ s.globalCyc < (7456 : OperandWord).toNat ∧ (7456 : OperandWord).toNat < s.nextTickCyc ∧
      (7456 : OperandWord).toNat = s.nextTransferCyc ∧ s.pending = none) ∧
    (let s := { quiet 7459 with nextTickCyc := 7460, nextTransferCyc := 7460, pending := some (7460, 0x40) }
     s.fault = none ∧ s.globalCyc < (7460 : OperandWord).toNat ∧ (7460 : OperandWord).toNat = s.nextTickCyc ∧
      (7460 : OperandWord).toNat = s.nextTransferCyc ∧
      ∀ pc v, s.pending = some (pc, v) → (7460 : OperandWord).toNat ≤ pc) :=
  ⟨by decide, by decide, rfl, by decide, rfl, rfl, fun pc v h => by cases h; decide⟩

/-- A pending write with bit 7 clear and one with it set; and, for the overflow, one due at the last even cycle. -/
theorem witness_runToPending :
    (let s := { quiet 1 with pending := some (2, 0x40) }
     s.fault = none ∧ s.globalCyc < (2 : OperandWord).toNat ∧ s.pending = some ((2 : OperandWord).toNat, 0x40) ∧
      (2 : OperandWord).toNat < s.nextTickCyc ∧ (2 : OperandWord).toNat < s.nextTransferCyc) ∧
    (0x40 : Byte).getLsbD 7 = false ∧ (0x80 : Byte).getLsbD 7 = true ∧ (2 : OperandWord).toNat + 7459 ≤ maxCycle ∧
    (let t : OperandWord := 0xFFFFFFFFFFFFFFFE
     let s := { quiet (maxCycle - 2) with
      nextTickCyc := maxCycle
      nextTransferCyc := maxCycle
      pending := some (maxCycle - 1, 0x80) }
     s.fault = none ∧ s.globalCyc < t.toNat ∧ s.pending = some (t.toNat, 0x80) ∧ t.toNat < s.nextTickCyc ∧
      t.toNat < s.nextTransferCyc ∧ ¬ t.toNat + 7459 ≤ maxCycle) := by decide

theorem quiet_scheduled : Scheduled (quiet 1) := ⟨by decide, by decide, fun _ _ h => by cases h⟩

theorem witness_runReaches : (quiet 1).fault = none ∧ Scheduled (quiet 1) := ⟨rfl, quiet_scheduled⟩

/-- A split at the jitter resolution, which the single call passes. -/
theorem witness_runIsAssociative :
    let s := { quiet 1 with pending := some (2, 0x00) }
    s.fault = none ∧ Scheduled s ∧ s.globalCyc ≤ (2 : OperandWord).toNat ∧
    (2 : OperandWord).toNat ≤ (4 : OperandWord).toNat ∧ ∃ u, exec (.run 4) s = .next u ∧ u.fault = none := by
  refine ⟨rfl, ⟨by decide, by decide, fun pc v h => ?_⟩, by decide, by decide, _, rfl, rfl⟩
  cases h
  decide

theorem witness_statusRead : (quiet 5).fault = none ∧ (5 : OperandWord).toNat ≤ (quiet 5).globalCyc := by decide

theorem witness_statusAtRaise :
    let s := { quiet 7450 with tick := 3 }
    s.fault = none ∧ s.globalCyc < (7459 : OperandWord).toNat ∧ (7459 : OperandWord).toNat = s.nextTickCyc ∧
    (7459 : OperandWord).toNat < s.nextTransferCyc ∧ s.pending = none ∧ s.mode = .fourStep ∧ s.tick = 3 ∧
    s.suppress = false := by decide

theorem witness_writes : isWrite (.wrP1Ctrl 0) = true ∧ isWrite (.wrFrame 0) = true ∧ isWrite .qry = false ∧
    isWrite (.run 0) = false ∧ isWrite (.rdStatus 0) = false ∧ (quiet 0).fault = none := by decide

theorem witness_runFrame : (∃ u, exec (.run 2) (quiet 1) = .next u) ∧ ∃ u, exec (.rdStatus 2) (quiet 1) = .next u :=
  ⟨⟨_, rfl⟩, _, rfl⟩

theorem witness_faulted : faulted.fault.isSome = true := by decide

/-- All three ways to clear the flag. -/
theorem witness_flagCleared :
    let s := { quiet 1 with irqFlag := true, pending := some (2, 0x40) }
    s.irqFlag = true ∧
    (after (exec (.rdStatus 1) s)).map (fun s => s.irqFlag) = some false ∧
    (after (exec (.wrFrame 0x40) s)).map (fun s => s.irqFlag) = some false ∧
    (after (exec (.run 2) s)).map (fun s => s.irqFlag) = some false := by decide

/-- A write and a query that leave the flag 0; and both masks, with a `run_to` that returns one result. -/
theorem witness_masked :
    (after (exec (.wrEnable 0x0F) (quiet 1))).map (fun s => s.irqFlag) = some false ∧
    (after (exec .qry (quiet 1))).map (fun s => s.irqFlag) = some false ∧
    (quiet 1).pending = none ∧ { quiet 1 with mode := .fiveStep }.mode = .fiveStep ∧
    { quiet 1 with suppress := true }.suppress = true ∧
    (after (exec (.run 2) { quiet 1 with suppress := true })).map (fun s => (s.irqFlag, s.results)) =
      some (false, [.interrupt none]) := by decide

/-- The steps of the invariants: a state that meets them all, with a command to run, and the step it takes. -/
theorem witness_step :
    let s := (quiet 1).withFetchWord 80 (0x8000 + 2 * 65536)
    Scheduled s ∧ CyclesFit s ∧ StepInRange s ∧ TimersInRange s ∧ ConstantsHold s ∧ LfsrAlive s ∧ DisabledInactive s ∧
    PendingNext s ∧ ∃ u, step s = .next u := by
  refine ⟨quiet_scheduled, ⟨by decide, by decide, fun _ _ h => by cases h⟩, ⟨by decide, fun _ => by decide⟩,
    ⟨by decide, by decide, by decide, by decide⟩, ⟨rfl, rfl⟩, ?_,
    ⟨fun _ => rfl, fun _ => rfl, fun _ => rfl, fun _ => rfl⟩, fun _ _ h => (by cases h), _, rfl⟩
  show (1 : BitVec 15) ≠ 0
  decide

/-- A pending write that is due next, an even cycle, and the step that applies it. -/
theorem witness_pendingNext :
    let s := { (quiet 1).withFetchWord 80 (0x8000 + 2 * 65536) with pending := some (2, 0x00) }
    Scheduled s ∧ PendingNext s ∧ ∃ u, step s = .next u := by
  refine ⟨⟨by decide, by decide, fun pc v h => ?_⟩, fun pc v h => ?_, _, rfl⟩
  · cases h; decide
  · cases h; exact ⟨rfl, rfl⟩

/-- The trace of a state one cycle after its last transfer. -/
theorem witness_traceCovers :
    let s := { (quiet 1).withFetchWord 80 (0x8000 + 2 * 65536) with trace := [outTuple State.reset] }
    Scheduled s ∧ TraceCovers s ∧ ∃ u, step s = .next u :=
  ⟨quiet_scheduled, fun _ => ⟨by decide, rfl⟩, _, rfl⟩

end Sys2Proof.Tests
end

section
/-! The frame sequencer's step actions and the status byte (spec/40_frame_sequencer.md R148 to R154, R167). -/

namespace Sys2Proof.Machine

/-! ## The step actions -/

/-- Step 4 of the 4-step mode raises from the suppress flag and the sticky flag that held before the step, since neither
clock writes them (R149, R153). -/
theorem fourStepLast_eq (s : State) :
    fourStepLast s =
      ({ lengthClock (envelopeClock s) with irqFlag := !s.suppress || s.irqFlag, tick := 0 },
        if s.suppress then none else some .frame) := by
  rw [fourStepLast, raiseFrameIrq_eq]
  rfl

/-- Settles O25: steps 1 to 3 are the clocks the sequence names, and step 4 is `fourStepLast_eq`. -/
theorem fourStepSequenceClocks : Obligations.FourStepSequenceClocks :=
  fun s => ⟨rfl, rfl, rfl, fourStepLast_eq s⟩

/-- Settles O26: each step of the 5-step sequence is one arm of `stepActions`. -/
theorem fiveStepSequenceClocks : Obligations.FiveStepSequenceClocks :=
  fun _ => ⟨rfl, rfl, rfl, rfl, rfl⟩

/-! ## The status byte -/

theorem LengthUnit.active_eq_decide (l : LengthUnit) : l.active = decide (l.count ≠ 0) := decide_not.symm

/-- The status byte as its list of bits, bit 0 first (R167). -/
theorem statusByte_eq_ofBoolListLE (s : State) :
    statusByte s = BitVec.ofBoolListLE
      [s.p1.len.active, s.p2.len.active, s.tri.len.active, s.noi.len.active, false, false, s.irqFlag, false] := by
  have high : BitVec.ofBool false ++ BitVec.ofBool s.irqFlag ++ (0 : BitVec 2) =
      BitVec.ofBoolListLE [false, false, s.irqFlag, false] := by
    cases s.irqFlag <;> rfl
  rw [statusByte, high]
  rfl

/-- Bit `i` of the status byte is entry `i` of that list. -/
theorem statusByte_getLsbD (s : State) (i : Nat) :
    (statusByte s).getLsbD i =
      [s.p1.len.active, s.p2.len.active, s.tri.len.active, s.noi.len.active, false, false, s.irqFlag, false].getD i
        false := by
  rw [statusByte_eq_ofBoolListLE]
  exact BitVec.getLsbD_ofBoolListLE

/-- Settles O47: the four channel bits are the active flags, which are 1 where the length counter is not 0. -/
theorem statusByteBits : Obligations.StatusByteBits := by
  intro s
  simp only [← LengthUnit.active_eq_decide, statusByte_getLsbD]
  exact ⟨rfl, rfl, rfl, rfl, rfl, rfl, rfl, rfl⟩

end Sys2Proof.Machine
end

section
/-! The channel enable register (spec/41_channel_common.md R190 to R192): what a `$15` write leaves of a channel, and
what a length counter of 0 makes of one (R197, R198). -/

namespace Sys2Proof.Machine

/-! ## The write -/

theorem exec_wrEnable {s : State} (h : s.fault = none) (v : Byte) :
    exec (.wrEnable v) s = .next (logResult .nothing (enableWrite v s)) := exec_plainWrite h rfl

/-- A set bit writes the enable flag alone (R192). -/
theorem LengthUnit.setEnable_of_set {b : Bool} (hb : b = true) (l : LengthUnit) :
    l.setEnable b = { l with enabled := true } := by
  subst hb
  rfl

/-- A clear bit zeroes the counter (R191). -/
theorem LengthUnit.setEnable_count_of_clear {b : Bool} (hb : b = false) (l : LengthUnit) :
    (l.setEnable b).count = 0 := by
  subst hb
  rfl

/-- Settles O20: each channel's length unit goes through `setEnable`, which a set bit makes a write of the flag. -/
theorem enablingLoadsNoLengthCounter : Obligations.EnablingLoadsNoLengthCounter := by
  intro v s h
  refine ⟨_, exec_wrEnable h v, fun hb => ?_, fun hb => ?_, fun hb => ?_, fun hb => ?_⟩
  · exact congrArg (fun l => { s.p1 with len := l }) (LengthUnit.setEnable_of_set hb _)
  · exact congrArg (fun l => { s.p2 with len := l }) (LengthUnit.setEnable_of_set hb _)
  · exact congrArg (fun l => { s.tri with len := l }) (LengthUnit.setEnable_of_set hb _)
  · exact congrArg (fun l => { s.noi with len := l }) (LengthUnit.setEnable_of_set hb _)

/-! ## A channel whose counter is 0 -/

theorem LengthUnit.active_of_count_zero {l : LengthUnit} (h : l.count = 0) : l.active = false := by
  simp [LengthUnit.active_eq_decide, h]

theorem Pulse.level_of_count_zero {p : Pulse} (h : p.len.count = 0) : p.level = 0 := if_pos (.inl h)

theorem Noise.level_of_count_zero {n : Noise} (h : n.len.count = 0) : n.level = 0 := if_pos (.inl h)

/-- With its counter at 0 the triangle's timer runs and its sequencer stands still, whether the timer is out or not. -/
theorem Triangle.stepTimer_seqPos_of_count_zero {t : Triangle} (h : t.len.count = 0) :
    t.stepTimer.seqPos = t.seqPos := by
  unfold Triangle.stepTimer
  split
  · exact if_neg fun gate => gate.1 h
  · rfl

/-- Settles O21: a clear bit zeroes the channel's counter, and the rest follows from a counter of 0. -/
theorem disablingZeroesAndSilences : Obligations.DisablingZeroesAndSilences := by
  intro v s h
  refine ⟨_, exec_wrEnable h v, fun hb => ?_, fun hb => ?_, fun hb => ?_, fun hb => ?_⟩
  · have zero : (enableWrite v s).p1.len.count = 0 := LengthUnit.setEnable_count_of_clear hb _
    exact ⟨zero, (statusByte_getLsbD _ 0).trans (LengthUnit.active_of_count_zero zero),
      Pulse.level_of_count_zero zero⟩
  · have zero : (enableWrite v s).p2.len.count = 0 := LengthUnit.setEnable_count_of_clear hb _
    exact ⟨zero, (statusByte_getLsbD _ 1).trans (LengthUnit.active_of_count_zero zero),
      Pulse.level_of_count_zero zero⟩
  · have zero : (enableWrite v s).tri.len.count = 0 := LengthUnit.setEnable_count_of_clear hb _
    exact ⟨zero, (statusByte_getLsbD _ 2).trans (LengthUnit.active_of_count_zero zero),
      Triangle.stepTimer_seqPos_of_count_zero zero⟩
  · have zero : (enableWrite v s).noi.len.count = 0 := LengthUnit.setEnable_count_of_clear hb _
    exact ⟨zero, (statusByte_getLsbD _ 3).trans (LengthUnit.active_of_count_zero zero),
      Noise.level_of_count_zero zero⟩

end Sys2Proof.Machine
end

section
/-! The command stream (spec/30_encoding.md sections 1 and 2): the decoder and the encoder undo each other, and the
decoder refuses exactly the illegal words. -/

namespace Sys2Proof

/-! ## Reading back an encoding -/

/-- A register write is read back from its own bytes: its offset is the row the decoder looks up. -/
theorem decode_encode_of_write {i : Instr} {a : Offset} {v : Byte} (hword : i.word = writeWord a v)
    (hoperand : i.operand = none) (hrow : decodeWrite a v = some i) (rest : List Byte) :
    decode (encode i ++ rest) = .instr i rest := by
  rw [encode, hword, hoperand, List.append_nil, decode_write, hrow]

theorem decode_of_legal {w : CmdWord} (h : illegalReason w = none) (rest : List Byte) :
    decode (wordBytes w ++ rest) = decodeAfter w rest := by
  rw [decode_wordBytes, h]

theorem decodeAfter_readStatusWord (x : OperandWord) (rest : List Byte) :
    decodeAfter 0x5500 (operandBytes x ++ rest) = .instr (.rdStatus x) rest := by
  rw [decodeAfter, show kindOf 0x5500 = .read by decide]
  dsimp only
  rw [takeOperand_operandBytes]
  exact if_pos (by decide)

theorem decodeAfter_runWord (x : OperandWord) (rest : List Byte) :
    decodeAfter 0x8000 (operandBytes x ++ rest) = .instr (.run x) rest := by
  rw [decodeAfter, show kindOf 0x8000 = .run by decide]
  dsimp only
  rw [takeOperand_operandBytes]

/-- Settles O1: a write by its row, a READ or RUN by its word and its operand, the query by its word. -/
theorem decodeOfEncodeIsTheInstruction : Obligations.DecodeOfEncodeIsTheInstruction := by
  rintro i rest -
  cases i
  case rdStatus x =>
    exact (decode_of_legal (w := 0x5500) (by decide) _).trans (decodeAfter_readStatusWord x rest)
  case run x => exact (decode_of_legal (w := 0x8000) (by decide) _).trans (decodeAfter_runWord x rest)
  case qry => exact decode_of_legal (w := 0xC000) (by decide) rest
  all_goals exact decode_encode_of_write rfl rfl rfl rest

/-! ## Only from its own encoding -/

/-- A stream that decodes to an instruction starts with the bytes of a legal word. -/
theorem decode_eq_instr {bs rest : List Byte} {i : Instr} (h : decode bs = .instr i rest) :
    ∃ w tail, bs = wordBytes w ++ tail ∧ illegalReason w = none ∧ decodeAfter w tail = .instr i rest := by
  match bs, h with
  | lo :: hi :: tail, h =>
    rw [decode] at h
    refine ⟨hi ++ lo, tail, by rw [wordBytes_of_bytes]; rfl, ?_⟩
    split at h
    · cases h
    · exact ⟨‹_›, h⟩
  | [_], h => cases h
  | [], h => cases h

/-- What each kind asks of a legal word (R118). -/
theorem illegalReason_eq_none {w : CmdWord} (h : illegalReason w = none) :
    w.getLsbD 13 = false ∧ (kindOf w = .read → dataOf w = 0) ∧ (kindOf w = .run → w = 0x8000) ∧
      (kindOf w = .query → w = 0xC000) := by
  unfold illegalReason at h
  split at h
  · cases h
  · refine ⟨Bool.eq_false_iff.mpr ‹_›, fun k => ?_, fun k => ?_, fun k => ?_⟩ <;>
      (rw [k] at h; simpa using h)

/-- Settles O2: each kind's word is fixed by the checks a legal word passes, and its operand by the bytes it is read
from. -/
theorem onlyItsEncodingDecodesToAnInstruction : Obligations.OnlyItsEncodingDecodesToAnInstruction := by
  intro bs rest i h
  obtain ⟨w, tail, rfl, legal, h⟩ := decode_eq_instr h
  obtain ⟨bit13, readData, runWord, queryWord⟩ := illegalReason_eq_none legal
  unfold decodeAfter at h
  split at h
  case h_1 k =>
    split at h
    case h_1 row =>
      cases h
      obtain ⟨hword, hoperand⟩ := decodeWrite_some row
      rw [encode, hword, hoperand, writeWord_fields w k bit13, List.append_nil]
    case h_2 => cases h
  case h_2 k =>
    split at h
    case h_1 x tail' hx =>
      split at h
      case isTrue a =>
        cases h
        rw [read_word_eq w k bit13 a (readData k), operandBytes_of_takeOperand hx]
        rfl
      case isFalse => cases h
    case h_2 => cases h
  case h_3 k =>
    split at h
    case h_1 x tail' hx =>
      cases h
      rw [runWord k, operandBytes_of_takeOperand hx]
      rfl
    case h_2 => cases h
  case h_4 k =>
    cases h
    rw [queryWord k]
    rfl

/-! ## Illegal words -/

theorem decodeAfter_ne_illegal (w : CmdWord) (rest : List Byte) (r : IllegalWord) :
    decodeAfter w rest ≠ .illegal r := by
  unfold decodeAfter
  split
  case h_1 => split <;> simp
  case h_2 =>
    split
    case h_1 => split <;> simp
    case h_2 => simp
  case h_3 => split <;> simp
  case h_4 => simp

/-- The kind as the two bits the well-formedness checks read (R111). -/
theorem kindOf_cases (w : CmdWord) :
    (w.extractLsb' 14 2 = 0 ∧ kindOf w = .write) ∨ (w.extractLsb' 14 2 = 1 ∧ kindOf w = .read) ∨
    (w.extractLsb' 14 2 = 2 ∧ kindOf w = .run) ∨ (w.extractLsb' 14 2 = 3 ∧ kindOf w = .query) := by
  unfold kindOf
  generalize w.extractLsb' 14 2 = k
  revert k
  decide

/-- The four checks of R118, stated apart from the decoder, are the decoder's. -/
theorem legalWord_iff (w : CmdWord) : legalWord w = true ↔ illegalReason w = none := by
  unfold legalWord reservedClear readDataZero runWordExact queryWordExact illegalReason dataOf
  rcases kindOf_cases w with ⟨bits, k⟩ | ⟨bits, k⟩ | ⟨bits, k⟩ | ⟨bits, k⟩ <;> cases w.getLsbD 13 <;> simp [bits, k]

theorem decode_illegal_iff (w : CmdWord) (rest : List Byte) (r : IllegalWord) :
    decode (wordBytes w ++ rest) = .illegal r ↔ illegalReason w = some r := by
  rw [decode_wordBytes]
  cases illegalReason w with
  | none => simpa using decodeAfter_ne_illegal w rest r
  | some r' => simp

/-- Settles O3: the decoder's reason exists exactly where a check fails. -/
theorem decoderRefusesExactlyIllegalWords : Obligations.DecoderRefusesExactlyIllegalWords := by
  intro w rest
  simp only [decode_illegal_iff, ← Option.isSome_iff_exists, ← Bool.not_eq_true, legalWord_iff,
    Option.isSome_iff_ne_none, ne_eq]

/-- Settles O4. -/
theorem writtenOutWordsDecode : Obligations.WrittenOutWordsDecode := by
  unfold Obligations.WrittenOutWordsDecode
  decide

end Sys2Proof
end

section
/-! One step around one host operation (R5, R118, R341, R342, R359), and the power-on state (R370). -/

namespace Sys2Proof.Machine

/-! ## The step -/

/-- With a command left in the stream a step runs what the decoder reads there. -/
theorem step_of_queue {s : State} (h : s.queue ≠ []) : step s = runDecoded (decode s.queue) s := by
  unfold step stepQueue
  split
  · exact absurd ‹_› h
  · next queue => rw [queue]

theorem step_of_decode {s : State} {d : Decoded} (h : decode s.queue = d) (hd : d ≠ .truncated) :
    step s = runDecoded d s := by
  subst h
  refine step_of_queue fun empty => hd ?_
  rw [empty]
  rfl

/-- Settles O5: the decoded row is run on the state its command was taken from. -/
theorem stepRunsTheDecodedInstruction : Obligations.StepRunsTheDecodedInstruction :=
  fun _ _ _ h _ => step_of_decode h (by simp)

/-- Settles O6: the empty stream is the step's first branch, and an illegal word is read as such by
`decoderRefusesExactlyIllegalWords`. -/
theorem stepWithoutAnInstruction : Obligations.StepWithoutAnInstruction := by
  refine ⟨fun s h => ?_, fun s w rest illegal h => ?_⟩
  · unfold step stepQueue
    rw [h]
  · obtain ⟨r, hr⟩ := (decoderRefusesExactlyIllegalWords w rest).mpr illegal
    exact ⟨r, step_of_decode (h ▸ hr) (by simp)⟩

theorem execWriteOutside_eq {s : State} (h : s.fault = none) (a : Offset) :
    execWriteOutside a s = .next (logResult .nothing (raiseFault .addressOutOfWindow a.toNat s)) := perform_error h rfl

theorem execReadOutside_eq {s : State} (h : s.fault = none) (a : Offset) :
    execReadOutside a s = .next (logResult .nothing (raiseFault .readNotServed a.toNat s)) := perform_error h rfl

theorem decodeWrite_outside {a : Offset} (h : 0x18 ≤ a.toNat) (v : Byte) : decodeWrite a v = none := by
  unfold decodeWrite
  split
  case h_25 => rfl
  all_goals omega

/-- Settles O7: no row has that offset, and the fault is raised on the state the command was taken from. -/
theorem writeOutsideTheWindowFaults : Obligations.WriteOutsideTheWindowFaults := by
  intro s a v rest outside h queue
  have read : decode s.queue = .writeOutside a rest := by
    rw [queue, decode_write, decodeWrite_outside outside]
  rw [step_of_decode read (by simp)]
  exact execWriteOutside_eq (s := s.issued rest) h a

/-- The READ word of any offset is legal and keeps its offset (R115). -/
theorem readWord_fields (a : Offset) :
    illegalReason ((2 : BitVec 3) ++ a ++ (0 : Byte)) = none ∧ kindOf ((2 : BitVec 3) ++ a ++ (0 : Byte)) = .read ∧
      offsetOf ((2 : BitVec 3) ++ a ++ (0 : Byte)) = a := by
  revert a
  decide

/-- Settles O8: the word reads as a READ of `a`, whose only row is that of `$15`. -/
theorem readOfAnotherOffsetFaults : Obligations.ReadOfAnotherOffsetFaults := by
  intro s a x rest other h queue
  obtain ⟨legal, kind, offset⟩ := readWord_fields a
  have read : decode s.queue = .readOutside a rest := by
    rw [queue, List.append_assoc, decode_of_legal legal, decodeAfter, kind]
    dsimp only
    rw [takeOperand_operandBytes, offset]
    exact if_neg other
  rw [step_of_decode read (by simp)]
  exact execReadOutside_eq (s := s.issued rest) h a

/-! ## Power-on -/

/-- Settles O9: each field is written out in `State.reset`. -/
theorem powerOnState : Obligations.PowerOnState := by
  refine ⟨rfl, rfl, rfl, rfl, tickDelta_fourStep_zero, rfl, rfl, rfl, rfl, rfl, ?_, rfl, rfl, rfl, rfl, rfl, rfl, rfl⟩
  rintro p second rfl
  exact ⟨rfl, rfl, rfl, rfl, rfl, rfl, rfl, rfl, rfl, rfl, rfl, rfl, rfl⟩

/-- Settles O60: the clock and the trace are empty, the schedule is one table entry ahead, and no write is pending. -/
theorem powerOnMeetsTheInvariants : Obligations.PowerOnMeetsTheInvariants := by
  have first : State.reset.nextTickCyc = 7459 := tickDelta_fourStep_zero
  have idle : State.reset.pending = none := rfl
  refine ⟨⟨?_, clocksNeeded_pos _, by simp [idle]⟩, ⟨Nat.zero_le _, ?_, by simp [idle]⟩, fun _ => ⟨Nat.le_refl 0, rfl⟩,
    ⟨Nat.zero_le _, fun _ => Nat.zero_le _⟩, ⟨Nat.zero_le _, Nat.zero_le _, Nat.zero_le _, Nat.zero_le _⟩, ⟨rfl, rfl⟩,
    (by decide : (1 : BitVec 15) ≠ 0), ⟨fun _ => rfl, fun _ => rfl, fun _ => rfl, fun _ => rfl⟩,
    by simp [PendingNext, idle]⟩
  · rw [first]
    decide
  · rw [first]
    decide

end Sys2Proof.Machine
end

section
/-! The register writes that only store into a channel (spec/30_encoding.md section 3): what each stores, and that it
stores nothing else. -/

namespace Sys2Proof.Machine

/-! ## Words -/

/-- The command of a write, as the two bytes of its word (R110, R114). -/
theorem decode_write_bytes (a : Offset) (v : Byte) (rest : List Byte) :
    decode (v :: ((0 : BitVec 3) ++ a) :: rest) =
      match decodeWrite a v with
      | some i => .instr i rest
      | none => .writeOutside a rest := by
  have read := decode_write a v rest
  rwa [writeWord, wordBytes_of_bytes] at read

/-- Settles O17: both words are rows that store nothing. -/
theorem unusedOffsetWritesHaveNoEffect : Obligations.UnusedOffsetWritesHaveNoEffect :=
  fun v _ rest => ⟨decode_write_bytes 0x14 v rest, decode_write_bytes 0x16 v rest,
    fun h => ⟨exec_plainWrite h rfl, exec_plainWrite h rfl⟩⟩

/-- Settles O18: the six rows store nothing. -/
theorem ignoredChannelWritesHaveNoEffect : Obligations.IgnoredChannelWritesHaveNoEffect :=
  fun _ _ h => ⟨exec_plainWrite h rfl, exec_plainWrite h rfl, exec_plainWrite h rfl, exec_plainWrite h rfl,
    exec_plainWrite h rfl, exec_plainWrite h rfl⟩

/-- Settles O19: the word is the row of `$15`, and `enableWrite` goes through the four length units. -/
theorem enableWriteSetsFlagsAndZeroes : Obligations.EnableWriteSetsFlagsAndZeroes :=
  fun v _ h => ⟨fun rest => decode_write_bytes 0x15 v rest, exec_wrEnable h v⟩

/-- A plain write answers the state it leaves, however that state is written out. -/
theorem exec_plainWrite_eq {i : Instr} {s s' u : State} (h : s.fault = none) (hp : plainWrite i s = some s')
    (hu : logResult .nothing s' = u) : exec i s = .next u := hu ▸ exec_plainWrite h hp

/-! ## Pulse channels -/

/-- Settles O10: the fields are `Pulse.writeCtrl`'s. -/
theorem pulseControlWriteStoresItsFields : Obligations.PulseControlWriteStoresItsFields :=
  fun _ _ h => ⟨exec_plainWrite_eq h rfl rfl, exec_plainWrite_eq h rfl rfl⟩

/-- Settles O11: the fields are `Pulse.writeSweep`'s. -/
theorem pulseSweepWriteStoresItsFields : Obligations.PulseSweepWriteStoresItsFields :=
  fun _ _ h => ⟨exec_plainWrite_eq h rfl rfl, exec_plainWrite_eq h rfl rfl⟩

/-- Settles O12: the new period is `withTimerLow`'s, whose two halves are the byte and the old high bits. -/
theorem timerLowWriteReplacesTheLowByte : Obligations.TimerLowWriteReplacesTheLowByte :=
  fun _ _ h => ⟨⟨_, withTimerLow_low _ _, withTimerLow_high _ _, exec_plainWrite_eq h rfl rfl⟩,
    ⟨_, withTimerLow_low _ _, withTimerLow_high _ _, exec_plainWrite_eq h rfl rfl⟩,
    ⟨_, withTimerLow_low _ _, withTimerLow_high _ _, exec_plainWrite_eq h rfl rfl⟩⟩

/-- The pulse top register with its length load written out (R194, R223). -/
theorem Pulse.writeTimerHigh_eq (v : Byte) (p : Pulse) :
    p.writeTimerHigh v = { p with
      period := withTimerHigh p.period v
      len := { p.len with count := if p.len.enabled then lengthEntry (lengthIndex v) else p.len.count }
      dutyPos := 0
      env := { p.env with start := true } } := by
  rw [Pulse.writeTimerHigh, LengthUnit.load_eq]
  rfl

/-- Settles O13: the write of both pulses is `Pulse.writeTimerHigh_eq`. -/
theorem pulseTopWriteLoadsAndRestarts : Obligations.PulseTopWriteLoadsAndRestarts := by
  intro v s h
  refine ⟨⟨_, withTimerHigh_high _ _, withTimerHigh_low _ _, exec_plainWrite_eq h rfl ?_⟩,
    ⟨_, withTimerHigh_high _ _, withTimerHigh_low _ _, exec_plainWrite_eq h rfl ?_⟩⟩
  · rw [Pulse.writeTimerHigh_eq]
    rfl
  · rw [Pulse.writeTimerHigh_eq]
    rfl

/-! ## Triangle and noise -/

/-- Settles O14: the fields are `Triangle.writeLinear`'s. -/
theorem triangleLinearWriteStoresItsFields : Obligations.TriangleLinearWriteStoresItsFields :=
  fun _ _ h => exec_plainWrite_eq h rfl rfl

/-- Settles O15: the length load is `LengthUnit.load_eq`'s. -/
theorem triangleTopWriteLoadsAndRestarts : Obligations.TriangleTopWriteLoadsAndRestarts := by
  intro v s h
  refine ⟨_, withTimerHigh_high _ _, withTimerHigh_low _ _, exec_plainWrite_eq h rfl ?_⟩
  rw [Triangle.writeTimerHigh, LengthUnit.load_eq]
  rfl

/-- Settles O16: the length load is `LengthUnit.load_eq`'s, the other two writes only store fields. -/
theorem noiseWritesStoreTheirFields : Obligations.NoiseWritesStoreTheirFields := by
  intro v s h
  refine ⟨exec_plainWrite_eq h rfl rfl, exec_plainWrite_eq h rfl rfl, exec_plainWrite_eq h rfl ?_⟩
  rw [Noise.writeLength, LengthUnit.load_eq]
  rfl

end Sys2Proof.Machine
end

section
/-! The units of the channels (spec/41_channel_common.md to spec/44_noise.md): timers, envelope, sweep, counters and
output levels. -/

namespace Sys2Proof.Machine

/-! ## Timers (R224, R265, R284) -/

theorem Pulse.stepTimer_expired {p : Pulse} (h : p.timerCtr = 0) :
    p.stepTimer = { p with timerCtr := 2 * (p.period.toNat + 1) - 1, dutyPos := p.dutyPos + 1 } := if_pos h

theorem Pulse.stepTimer_running {p : Pulse} (h : p.timerCtr ≠ 0) :
    p.stepTimer = { p with timerCtr := p.timerCtr - 1 } := if_neg h

theorem Triangle.stepTimer_expired {t : Triangle} (h : t.timerCtr = 0) :
    t.stepTimer = { t with
      timerCtr := t.period.toNat
      seqPos := if t.len.count ≠ 0 ∧ t.linear ≠ 0 then t.seqPos + 1 else t.seqPos } := if_pos h

theorem Triangle.stepTimer_running {t : Triangle} (h : t.timerCtr ≠ 0) :
    t.stepTimer = { t with timerCtr := t.timerCtr - 1 } := if_neg h

theorem Noise.stepTimer_expired {n : Noise} (h : n.timerCtr = 0) :
    n.stepTimer = { n with timerCtr := noisePeriod n.periodIdx - 1, lfsr := shiftLfsr n.mode n.lfsr } := if_pos h

theorem Noise.stepTimer_running {n : Noise} (h : n.timerCtr ≠ 0) :
    n.stepTimer = { n with timerCtr := n.timerCtr - 1 } := if_neg h

/-- A counter that goes down by one a step, from the states `count n` in which it holds `n`. -/
theorem iterate_countdown {α : Type} {step : α → α} {count : Nat → α} {n : Nat}
    (hstep : ∀ m < n, step (count (m + 1)) = count m) {k : Nat} (hk : k ≤ n) : step^[k] (count n) = count (n - k) := by
  induction k with
  | zero => rfl
  | succ k ih =>
    rw [Function.iterate_succ_apply', ih (by omega), show n - k = n - (k + 1) + 1 by omega, hstep _ (by omega)]

/-- A whole period: the step that reloads the counter with `n`, and the `n` steps that count it down. -/
theorem iterate_period {α : Type} {step : α → α} {count : Nat → α} {n : Nat} {a : α} (hreload : step a = count n)
    (hstep : ∀ m < n, step (count (m + 1)) = count m) : step^[n + 1] a = count 0 := by
  rw [Function.iterate_succ_apply, hreload, iterate_countdown hstep (Nat.le_refl n), Nat.sub_self]

theorem Pulse.stepTimer_succ (p : Pulse) (m : Nat) :
    Pulse.stepTimer { p with timerCtr := m + 1 } = { p with timerCtr := m } :=
  Pulse.stepTimer_running (Nat.succ_ne_zero m)

theorem Triangle.stepTimer_succ (t : Triangle) (m : Nat) :
    Triangle.stepTimer { t with timerCtr := m + 1 } = { t with timerCtr := m } :=
  Triangle.stepTimer_running (Nat.succ_ne_zero m)

theorem Noise.stepTimer_succ (n : Noise) (m : Nat) :
    Noise.stepTimer { n with timerCtr := m + 1 } = { n with timerCtr := m } :=
  Noise.stepTimer_running (Nat.succ_ne_zero m)

/-- Settles O32: the reload is the first of the `2 * (period + 1)` cycles, and the rest count it down. -/
theorem pulseDutyStepLastsTwicePeriodPlusOne : Obligations.PulseDutyStepLastsTwicePeriodPlusOne := by
  refine fun p => ⟨fun k => iterate_countdown (count := fun n => { p with timerCtr := n })
    fun m _ => p.stepTimer_succ m, fun h => ⟨Pulse.stepTimer_expired h, ?_⟩⟩
  have reload := Pulse.stepTimer_expired h
  obtain ⟨n, hn⟩ : ∃ n, 2 * (p.period.toNat + 1) = n + 1 := ⟨_, rfl⟩
  rw [hn] at reload ⊢
  rw [iterate_period (count := fun n => { p.stepTimer with timerCtr := n })
    (by rw [reload]; rfl) fun m _ => Pulse.stepTimer_succ _ m, reload, ← h]

/-- Settles O33: the reload is the first of the `period + 1` cycles, and the rest count it down. -/
theorem triangleStepLastsPeriodPlusOne : Obligations.TriangleStepLastsPeriodPlusOne := by
  refine fun t => ⟨fun k => iterate_countdown (count := fun n => { t with timerCtr := n })
    fun m _ => t.stepTimer_succ m, fun h => ⟨Triangle.stepTimer_expired h, ?_⟩⟩
  have reload := Triangle.stepTimer_expired h
  rw [iterate_period (count := fun n => { t.stepTimer with timerCtr := n })
    (by rw [reload]) fun m _ => Triangle.stepTimer_succ _ m, reload, ← h]

theorem noisePeriod_pos (i : BitVec 4) : 1 ≤ noisePeriod i := by
  revert i
  decide

theorem shiftLfsr_getLsbD (m : TapMode) (r : BitVec 15) (k : Nat) :
    (shiftLfsr m r).getLsbD k =
      if k < 14 then (r.extractLsb' 1 14).getLsbD k
      else (BitVec.ofBool (r.getLsbD 0 ^^ r.getLsbD (if m = .short then 6 else 1))).getLsbD (k - 14) := by
  cases m <;> exact BitVec.getLsbD_append

/-- The shift moves every bit down by one (R285). -/
theorem shiftLfsr_low (m : TapMode) (r : BitVec 15) {k : Nat} (h : k < 14) :
    (shiftLfsr m r).getLsbD k = r.getLsbD (k + 1) := by
  simp [shiftLfsr_getLsbD, h, Nat.add_comm]

/-- The feedback enters at bit 14: bit 0 against bit 6 in the short mode, against bit 1 in the long one (R285). -/
theorem shiftLfsr_top (m : TapMode) (r : BitVec 15) :
    (shiftLfsr m r).getLsbD 14 = (r.getLsbD 0 ^^ r.getLsbD (if m = .short then 6 else 1)) := by
  rw [shiftLfsr_getLsbD]
  simp

/-- Settles O34: the reload and the shift are the first of the `NOISE_PERIOD[period_idx]` cycles, and the rest count the
timer down. -/
theorem noiseShiftsOncePerPeriod : Obligations.NoiseShiftsOncePerPeriod := by
  refine fun n => ⟨fun k => iterate_countdown (count := fun c => { n with timerCtr := c })
    fun m _ => n.stepTimer_succ m, fun h => ⟨shiftLfsr n.mode n.lfsr, fun k => shiftLfsr_low _ _,
    shiftLfsr_top _ _, Noise.stepTimer_expired h, ?_⟩⟩
  have reload := Noise.stepTimer_expired h
  obtain ⟨j, hj⟩ := Nat.exists_eq_add_of_le' (noisePeriod_pos n.periodIdx)
  rw [hj] at reload ⊢
  rw [iterate_period (count := fun k => { n.stepTimer with timerCtr := k })
    (by rw [reload]; rfl) fun m _ => Noise.stepTimer_succ _ m, reload, ← h]

/-! ## Envelope (R200) -/

theorem Envelope.clock_start {e : Envelope} (h : e.start = true) :
    e.clock = { e with start := false, decay := 15, divider := e.vol } := if_pos h

theorem Envelope.clock_running {e : Envelope} (h : e.start = false) (hd : e.divider ≠ 0) :
    e.clock = { e with divider := e.divider - 1 } :=
  (if_neg (Bool.eq_false_iff.mp h)).trans (if_neg hd)

theorem Envelope.clock_expired {e : Envelope} (h : e.start = false) (hd : e.divider = 0) :
    e.clock = { e with
      divider := e.vol
      decay := if e.decay ≠ 0 then e.decay - 1 else if e.halt then 15 else e.decay } :=
  (if_neg (Bool.eq_false_iff.mp h)).trans (if_pos hd)

theorem Envelope.clock_succ {e : Envelope} (h : e.start = false) {m : Nat} (hm : m < 15) :
    Envelope.clock { e with divider := BitVec.ofNat 4 (m + 1) } = { e with divider := BitVec.ofNat 4 m } := by
  have nonzero : BitVec.ofNat 4 (m + 1) ≠ 0 := by bv_omega
  rw [Envelope.clock_running (e := { e with divider := BitVec.ofNat 4 (m + 1) }) h nonzero]
  congr 1
  bv_omega

/-- Up to the divider's value the clocks lower the divider only. -/
theorem Envelope.clock_iterate {e : Envelope} (h : e.start = false) {k : Nat} (hk : k ≤ e.divider.toNat) :
    Envelope.clock^[k] e = { e with divider := BitVec.ofNat 4 (e.divider.toNat - k) } := by
  have bound := e.divider.isLt
  have count := iterate_countdown (count := fun n => { e with divider := BitVec.ofNat 4 n })
    (fun m hm => Envelope.clock_succ h (by omega)) hk
  rwa [BitVec.ofNat_toNat, BitVec.setWidth_eq] at count

/-- The decay level one period later: one lower, or at 0 kept or, with the loop flag, back at 15. -/
def Envelope.nextDecay (halt : Bool) (decay : BitVec 4) : BitVec 4 :=
  if 0 < decay.toNat then BitVec.ofNat 4 (decay.toNat - 1) else if halt then 15 else 0

theorem Envelope.clock_expired_decay (halt : Bool) (decay : BitVec 4) :
    (if decay ≠ 0 then decay - 1 else if halt then 15 else decay) = Envelope.nextDecay halt decay := by
  revert halt decay
  decide

/-- The clock after the divider's value reloads it and moves the level on. -/
theorem Envelope.clock_period {e : Envelope} (h : e.start = false) :
    Envelope.clock^[e.divider.toNat + 1] e = { e with
      divider := e.vol, decay := Envelope.nextDecay e.halt e.decay } := by
  rw [Function.iterate_succ_apply', Envelope.clock_iterate h (Nat.le_refl _), Nat.sub_self,
    Envelope.clock_expired (e := { e with divider := 0#4 }) h rfl, ← Envelope.clock_expired_decay]

/-- The level `k` periods after a start. -/
def Envelope.decayAfter (halt : Bool) (k : Nat) : BitVec 4 := BitVec.ofNat 4 (if halt then 15 - k % 16 else 15 - k)

theorem Envelope.nextDecay_decayAfter (halt : Bool) (k : Nat) :
    Envelope.nextDecay halt (Envelope.decayAfter halt k) = Envelope.decayAfter halt (k + 1) := by
  unfold Envelope.nextDecay Envelope.decayAfter
  cases halt
  · simp only [Bool.false_eq_true, if_false]
    split <;> bv_omega
  · simp only [if_true]
    split <;> bv_omega

/-- From a start, the level after the restart's own clock and `k` periods (R200). -/
theorem Envelope.clock_periods {e : Envelope} (h : e.start = true) (k : Nat) :
    Envelope.clock^[k * (e.vol.toNat + 1) + 1] e = { e with
      start := false, decay := Envelope.decayAfter e.halt k, divider := e.vol } := by
  induction k with
  | zero =>
    rw [Nat.zero_mul, Function.iterate_succ_apply, Envelope.clock_start h]
    cases hh : e.halt <;> rfl
  | succ k ih =>
    rw [show (k + 1) * (e.vol.toNat + 1) + 1 = (e.vol.toNat + 1) + (k * (e.vol.toNat + 1) + 1) by ring,
      Function.iterate_add_apply, ih, ← Envelope.nextDecay_decayAfter]
    exact Envelope.clock_period (e := { e with
      start := false, decay := Envelope.decayAfter e.halt k, divider := e.vol }) rfl

/-- Settles O29. -/
theorem envelopeDecaysEveryPeriod : Obligations.EnvelopeDecaysEveryPeriod :=
  fun _ k => ⟨fun h => Envelope.clock_periods h k, fun h hk => Envelope.clock_iterate h hk,
    fun h => Envelope.clock_period h⟩

/-! ## Sweep (R226 to R228) -/

theorem Pulse.sweepTarget_eq (p : Pulse) :
    p.sweepTarget =
      if p.negate = false then (p.period.toNat : Int) + (p.period.toNat / 2 ^ p.shift.toNat : Nat)
      else if p.isSecond = false then (p.period.toNat : Int) - (p.period.toNat / 2 ^ p.shift.toNat : Nat) - 1
      else (p.period.toNat : Int) - (p.period.toNat / 2 ^ p.shift.toNat : Nat) := by
  rw [← Nat.shiftRight_eq_div_pow, ← BitVec.toNat_ushiftRight]
  rfl

theorem Pulse.muted_eq_false_iff (p : Pulse) : p.muted = false ↔ 8 ≤ p.period.toNat ∧ p.sweepTarget ≤ 0x7FF := by
  simp [Pulse.muted]

/-- A shift by at least one takes at most half of a period of at least 8 away, and one more at most (R228). -/
theorem Pulse.three_le_sweepTarget {p : Pulse} (hshift : p.shift ≠ 0) (hperiod : 8 ≤ p.period.toNat) :
    3 ≤ p.sweepTarget := by
  have positive : 1 ≤ p.shift.toNat := Nat.one_le_iff_ne_zero.mpr fun h => hshift (BitVec.eq_of_toNat_eq h)
  have half : p.period.toNat / 2 ^ p.shift.toNat ≤ p.period.toNat / 2 ^ 1 :=
    Nat.div_le_div_left (Nat.pow_le_pow_right (by decide) positive) (by decide)
  rw [Pulse.sweepTarget_eq]
  generalize p.period.toNat / 2 ^ p.shift.toNat = c at half ⊢
  split
  · omega
  · split <;> omega

theorem toNat_ofInt_period {x : Int} (h0 : 0 ≤ x) (h1 : x ≤ 0x7FF) : ((BitVec.ofInt 11 x).toNat : Int) = x := by
  rw [BitVec.toNat_ofInt]
  omega

theorem Pulse.sweepPeriodUpdate_eq (p : Pulse) :
    p.sweepPeriodUpdate = { p with period := p.sweepPeriodUpdate.period } := by
  unfold Pulse.sweepPeriodUpdate
  split <;> rfl

theorem Pulse.sweepDividerUpdate_eq (p : Pulse) :
    p.sweepDividerUpdate = { p with
      sweepDivider := if p.sweepDivider = 0 ∨ p.sweepReload = true then p.sweepPeriod
        else BitVec.ofNat 3 (p.sweepDivider.toNat - 1)
      sweepReload := false } := by
  unfold Pulse.sweepDividerUpdate
  split
  · rfl
  · next running =>
    obtain ⟨nonzero, noReload⟩ := not_or.mp running
    have lower : p.sweepDivider - 1 = BitVec.ofNat 3 (p.sweepDivider.toNat - 1) := by bv_omega
    rw [lower, ← Bool.eq_false_iff.mpr noReload]

/-- Settles O30: the first half of the clock writes the target where it is not muted, the second half the divider. -/
theorem sweepClockWritesItsTarget : Obligations.SweepClockWritesItsTarget := by
  refine fun p => ⟨p.sweepTarget_eq, ?_, ?_⟩
  · simp only [Pulse.sweepClock_period, Pulse.sweepPeriodUpdate, Pulse.muted_eq_false_iff]
    split
    · next writes =>
      obtain ⟨-, -, hshift, hperiod, htarget⟩ := writes
      have low := Pulse.three_le_sweepTarget hshift hperiod
      have written := toNat_ofInt_period (by omega) htarget
      exact ⟨written, by dsimp only; omega⟩
    · rfl
  · rw [Pulse.sweepClock_period, Pulse.sweepClock, Pulse.sweepDividerUpdate_eq, Pulse.sweepPeriodUpdate_eq]

/-! ## Counters and levels (R195, R201, R229, R264, R266, R286) -/

/-- The linear counter's clock: reloaded on its flag, else down to 0, the flag held by the control flag (R264). -/
theorem Triangle.envelopeClock_eq (t : Triangle) :
    t.envelopeClock = { t with
      linear := if t.linearReload = true then t.reloadVal
        else if 0 < t.linear.toNat then BitVec.ofNat 7 (t.linear.toNat - 1) else 0
      linearReload := t.linearReload && t.control } := by
  have lower : (if t.linear ≠ 0 then t.linear - 1 else t.linear) =
      if 0 < t.linear.toNat then BitVec.ofNat 7 (t.linear.toNat - 1) else 0 := by
    split <;> split <;> bv_omega
  have hold : (if t.control = false then false else t.linearReload) = (t.linearReload && t.control) := by
    cases t.control <;> simp
  rw [Triangle.envelopeClock, lower, hold]

/-- Settles O31: the triangle's linear counter is `Triangle.envelopeClock_eq`, the three envelopes are clocked as they
stand. -/
theorem linearCounterClock : Obligations.LinearCounterClock := by
  intro s
  rw [← Triangle.envelopeClock_eq]
  rfl

/-- Settles O28: each channel's counter is `LengthUnit.clock_eq`, and by `LengthUnit.clock_count_le` it never rises. -/
theorem lengthClockCountsDown : Obligations.LengthClockCountsDown := by
  intro s
  have len1 : (lengthClock s).p1.len = s.p1.len.clock s.p1.env.halt := Pulse.sweepClock_len _
  have len2 : (lengthClock s).p2.len = s.p2.len.clock s.p2.env.halt := Pulse.sweepClock_len _
  refine ⟨?_, len1.trans (LengthUnit.clock_eq _ _), len2.trans (LengthUnit.clock_eq _ _), ?_, ?_,
    LengthUnit.clock_count_le _ _, LengthUnit.clock_count_le _ _⟩
  · simp only [lengthClock, Pulse.lengthClock, Triangle.lengthClock, Noise.lengthClock, LengthUnit.clock_eq]
  · rw [len1]
    exact LengthUnit.clock_count_le _ _
  · rw [len2]
    exact LengthUnit.clock_count_le _ _

theorem Pulse.muted_iff (p : Pulse) : p.muted = true ↔ p.period.toNat < 8 ∨ 0x7FF < p.sweepTarget := by
  simp [Pulse.muted]

/-- Settles O35: a pulse's mute is `Pulse.muted_iff`, the other levels stand as written. -/
theorem outputLevelsAreGated : Obligations.OutputLevelsAreGated := by
  refine ⟨fun p => ?_, fun n => rfl, fun t => rfl⟩
  simp only [Pulse.level, Pulse.muted_iff, or_assoc]
  rfl

end Sys2Proof.Machine
end

section
/-! The events of the frame sequencer and the mixer (spec/40_frame_sequencer.md sections 2 and 3, spec/46_mixer.md):
play, tick, transfer, and the `$17` write at once or deferred. -/

namespace Sys2Proof.Machine

/-! ## Play, tick and transfer -/

theorem play_self (a : Nat) (s : State) : play a a s = s := by
  rw [play, Nat.sub_self, playCycles]

theorem play_succ (a : Nat) (s : State) : play a (a + 1) s = playCycle s := by
  rw [play, Nat.add_sub_cancel_left]
  rfl

/-- Settles O36: an empty window is no cycle, a window of one is `playCycle`, and windows compose by `play_play`. -/
theorem playIsContiguous : Obligations.PlayIsContiguous :=
  ⟨fun a s => ⟨play_self a s, play_succ a s⟩,
    fun a b _ s hab hbc => ⟨play_play hab hbc s, play_trace_length a b s⟩⟩

/-- Settles O27: the two branches are `tickEvent_ok` and `tickEvent_error`. -/
theorem tickCountsReschedulesAndActs : Obligations.TickCountsReschedulesAndActs := by
  intro n s
  split
  · next fits => exact tickEvent_ok fits
  · next overflows => exact tickEvent_error (Nat.lt_of_not_le overflows)

/-- Settles O37: the two branches are `transfer_ok` and `transfer_error`. -/
theorem transferHandsOneBlockToTheSink : Obligations.TransferHandsOneBlockToTheSink := by
  intro e s
  refine ⟨resampleBlock_length _ _, ?_⟩
  split
  · next fits => exact transfer_ok fits
  · next overflows => exact transfer_error (Nat.lt_of_not_le overflows)

/-! ## Applying a `$17` write (R159) -/

theorem frameMode_of_clear {v : Byte} (h : v.getLsbD 7 = false) : frameMode v = .fourStep := by
  rw [frameMode, h]
  rfl

theorem frameMode_of_set {v : Byte} (h : v.getLsbD 7 = true) : frameMode v = .fiveStep := by
  rw [frameMode, h]
  rfl

/-- An applied write with its stores written out: the clocks read none of them. -/
theorem applyFrame_eq (v : Byte) (e : Nat) (s : State) :
    applyFrame v e s =
      if e + tickDelta (frameMode v) 0 ≤ maxCycle then
        .ok { immediateClock (frameMode v) s with
          mode := frameMode v
          suppress := v.getLsbD 6
          tick := 0
          nextTickCyc := e + tickDelta (frameMode v) 0
          irqFlag := if v.getLsbD 6 then false else s.irqFlag }
      else .error { s with
        mode := frameMode v
        suppress := v.getLsbD 6
        tick := 0
        fault := some .cycleOverflow
        faultInfo := some (e + tickDelta (frameMode v) 0) } := by
  split
  · next fits =>
    rw [applyFrame_ok fits, clearIrqIf_eq]
    cases frameMode v <;> rfl
  · next overflows => exact applyFrame_error (Nat.lt_of_not_le overflows)

/-- With bit 7 clear nothing is clocked, and slot 0 is the one entry the spec fixes. -/
theorem applyFrame_of_clear {v : Byte} (h : v.getLsbD 7 = false) (e : Nat) (s : State) :
    applyFrame v e s =
      if e + 7459 ≤ maxCycle then
        .ok { s with
          mode := .fourStep
          suppress := v.getLsbD 6
          tick := 0
          nextTickCyc := e + 7459
          irqFlag := if v.getLsbD 6 then false else s.irqFlag }
      else .error { s with
        mode := .fourStep
        suppress := v.getLsbD 6
        tick := 0
        fault := some .cycleOverflow
        faultInfo := some (e + 7459) } := by
  rw [applyFrame_eq, frameMode_of_clear h, tickDelta_fourStep_zero]
  rfl

/-- With bit 7 set everything is clocked once. -/
theorem applyFrame_of_set {v : Byte} (h : v.getLsbD 7 = true) (e : Nat) (s : State) :
    applyFrame v e s =
      if e + tickDelta .fiveStep 0 ≤ maxCycle then
        .ok { lengthClock (envelopeClock s) with
          mode := .fiveStep
          suppress := v.getLsbD 6
          tick := 0
          nextTickCyc := e + tickDelta .fiveStep 0
          irqFlag := if v.getLsbD 6 then false else s.irqFlag }
      else .error { s with
        mode := .fiveStep
        suppress := v.getLsbD 6
        tick := 0
        fault := some .cycleOverflow
        faultInfo := some (e + tickDelta .fiveStep 0) } := by
  rw [applyFrame_eq, frameMode_of_set h]
  rfl

/-! ## Issuing a `$17` write (R157) -/

/-- What a `$17` write answers: the state it leaves, by a fault or without one. -/
theorem exec_wrFrame_of_ok {v : Byte} {s s' : State} (h : s.fault = none) (hw : writeFrame v s = .ok s') :
    exec (.wrFrame v) s = .next (logResult .nothing s') := performWriteE_ok h hw

theorem exec_wrFrame_of_error {v : Byte} {s s' : State} (h : s.fault = none) (hw : writeFrame v s = .error s') :
    exec (.wrFrame v) s = .next (logResult .nothing s') := performWriteE_error h hw

/-- On an even cycle the write is applied at once, with nothing left pending (R159, R162). -/
theorem writeFrame_even {v : Byte} {s : State} (h : s.globalCyc % 2 = 0) :
    writeFrame v s = applyFrame v s.globalCyc { clearIrqIf (frameSuppress v) s with pending := none } := by
  rw [writeFrame]
  exact if_neg (by omega)

/-- The flag is cleared at the issue and again where the write is applied (R158). -/
theorem clear_twice (b : Bool) (flag : Bool) :
    (if b then false else if b then false else flag) = if b then false else flag := by
  cases b <;> rfl

/-- Settles O22: the write is `applyFrame_of_clear` at its own cycle. -/
theorem frameWriteToFourStepOnAnEvenCycle : Obligations.FrameWriteToFourStepOnAnEvenCycle := by
  intro v s h even bit7
  have applied := applyFrame_of_clear bit7 s.globalCyc { clearIrqIf (frameSuppress v) s with pending := none }
  rw [← writeFrame_even even, clearIrqIf_eq] at applied
  split at applied
  · next fits =>
    rw [if_pos fits, exec_wrFrame_of_ok h applied, frameSuppress, clear_twice]
    rfl
  · next overflows =>
    rw [if_neg overflows, exec_wrFrame_of_error h applied]
    rfl

/-- Settles O23: the write is `applyFrame_of_set` at its own cycle; the clocks do not read what it wrote. -/
theorem frameWriteToFiveStepOnAnEvenCycle : Obligations.FrameWriteToFiveStepOnAnEvenCycle := by
  intro v s h even bit7
  have applied := applyFrame_of_set bit7 s.globalCyc { clearIrqIf (frameSuppress v) s with pending := none }
  rw [← writeFrame_even even, clearIrqIf_eq] at applied
  split at applied
  · next fits =>
    rw [if_pos fits, exec_wrFrame_of_ok h applied, frameSuppress, clear_twice]
    rfl
  · next overflows =>
    rw [if_neg overflows, exec_wrFrame_of_error h applied]
    rfl

/-- On an odd cycle the write waits for the next one (R161). -/
theorem writeFrame_odd_ok {v : Byte} {s : State} (h : s.globalCyc % 2 = 1) (before : s.globalCyc < maxCycle) :
    writeFrame v s = .ok { clearIrqIf (frameSuppress v) s with pending := some (s.globalCyc + 1, v) } := by
  rw [writeFrame, if_pos h, schedule_eq_some.mpr ⟨before, rfl⟩]

/-- After the last cycle there is no next one (R343). -/
theorem writeFrame_odd_error {v : Byte} {s : State} (h : s.globalCyc % 2 = 1) (last : s.globalCyc = maxCycle) :
    writeFrame v s = .error (raiseFault .cycleOverflow (maxCycle + 1) (clearIrqIf (frameSuppress v) s)) := by
  rw [writeFrame, if_pos h, schedule_eq_none.mpr (by omega), last]

/-- Settles O24: the two cases are `writeFrame_odd_ok` and `writeFrame_odd_error`. -/
theorem frameWriteOnAnOddCycleIsDeferred : Obligations.FrameWriteOnAnOddCycleIsDeferred := by
  intro v s h odd
  refine ⟨fun before => ?_, fun last => ?_⟩
  · rw [exec_wrFrame_of_ok h (writeFrame_odd_ok odd before), clearIrqIf_eq]
    rfl
  · rw [exec_wrFrame_of_error h (writeFrame_odd_error odd last), clearIrqIf_eq]
    rfl

end Sys2Proof.Machine
end

section
/-! `run_to`, the status read and the query as host operations (spec/40_frame_sequencer.md sections 1, 4 and 5). -/

namespace Sys2Proof.Machine

/-! ## What an operation's bounds say of one outcome -/

theorem Post.of_ok {α : Type} {r : Except State α} {Q : α → Prop} {E : State → Prop} {a : α} (h : Post r Q E)
    (hr : r = .ok a) : Q a := by
  rwa [hr, post_ok] at h

theorem Post.of_error {α : Type} {r : Except State α} {Q : α → Prop} {E : State → Prop} {e : State} (h : Post r Q E)
    (hr : r = .error e) : E e := by
  rwa [hr, post_error] at h

/-! ## RUN, RD_STATUS and QRY by the runs they are -/

theorem exec_run_of_ok {t : OperandWord} {s s' : State} {irq : Option Interrupt} (h : s.fault = none)
    (hr : runTo t.toNat s = .ok (s', irq)) : exec (.run t) s = .next (logResult (.interrupt irq) s') :=
  perform_ok h (by rw [runOperation, hr])

theorem exec_run_of_error {t : OperandWord} {s s' : State} (h : s.fault = none) (hr : runTo t.toNat s = .error s') :
    exec (.run t) s = .next (logResult .nothing s') :=
  perform_error h (by rw [runOperation, hr])

/-- Everything RUN can do from a state with no fault. -/
theorem exec_run_cases {t : OperandWord} {s u : State} (h : s.fault = none) (hu : exec (.run t) s = .next u) :
    (∃ s' irq, runTo t.toNat s = .ok (s', irq) ∧ u = logResult (.interrupt irq) s') ∨
      ∃ s', runTo t.toNat s = .error s' ∧ u = logResult .nothing s' := by
  cases hr : runTo t.toNat s with
  | ok p => exact .inl ⟨p.1, p.2, rfl, by rw [exec_run_of_ok h hr] at hu; cases hu; rfl⟩
  | error e => exact .inr ⟨e, rfl, by rw [exec_run_of_error h hr] at hu; cases hu; rfl⟩

theorem exec_rdStatus_of_ok {c : OperandWord} {s s1 s2 : State} {i1 i2 : Option Interrupt} (h : s.fault = none)
    (h1 : runTo (c.toNat - 1) s = .ok (s1, i1)) (h2 : runTo c.toNat (clearIrq s1) = .ok (s2, i2)) :
    exec (.rdStatus c) s = .next (logResult (.status (orIrq i1 i2) (statusByte s1)) s2) :=
  perform_ok h (by simp only [readStatus, h1, h2])

theorem exec_rdStatus_of_error {c : OperandWord} {s s1 e : State} {i1 : Option Interrupt} (h : s.fault = none)
    (h1 : runTo (c.toNat - 1) s = .ok (s1, i1)) (h2 : runTo c.toNat (clearIrq s1) = .error e) :
    exec (.rdStatus c) s = .next (logResult .nothing e) :=
  perform_error h (by simp only [readStatus, h1, h2])

theorem exec_rdStatus_of_error_before {c : OperandWord} {s e : State} (h : s.fault = none)
    (h1 : runTo (c.toNat - 1) s = .error e) : exec (.rdStatus c) s = .next (logResult .nothing e) :=
  perform_error h (by simp only [readStatus, h1])

theorem orIrq_eq (i1 i2 : Option Interrupt) :
    orIrq i1 i2 = if i1 = some .frame ∨ i2 = some .frame then some .frame else none := by
  match i1, i2 with
  | none, none => rfl
  | none, some .frame => rfl
  | some .frame, _ => simp [orIrq]

/-- Settles O44: RUN and RD_STATUS by the outcomes of their runs. -/
theorem statusReadRunsInTwoPhases : Obligations.StatusReadRunsInTwoPhases := by
  refine ⟨orIrq_eq, fun c s h => ⟨?_, ?_⟩⟩
  · cases hr : runTo c.toNat s with
    | ok p => exact exec_run_of_ok h hr
    | error e => exact exec_run_of_error h hr
  · cases h1 : runTo (c.toNat - 1) s with
    | error e => exact exec_rdStatus_of_error_before h h1
    | ok p =>
      dsimp only
      cases h2 : runTo c.toNat { p.1 with irqFlag := false } with
      | ok q => exact exec_rdStatus_of_ok h h1 h2
      | error e => exact exec_rdStatus_of_error h h1 h2

/-- Settles O38: the loop of `run_to` does not start. -/
theorem runNotAheadIsANoOp : Obligations.RunNotAheadIsANoOp :=
  fun _ _ h notAhead => exec_run_of_ok h (runTo_stop notAhead)

/-- Settles O45: neither run starts, and the flag is cleared between them. -/
theorem statusReadNotAheadSamplesAndClears : Obligations.StatusReadNotAheadSamplesAndClears :=
  fun _ _ h notAhead =>
    exec_rdStatus_of_ok h (runTo_stop (Nat.le_trans (Nat.sub_le _ _) notAhead)) (runTo_stop notAhead)

theorem exec_qry {s : State} (h : s.fault = none) :
    exec .qry s = .next { s with results := s.results ++ [.cycle s.nextTickCyc] } :=
  perform_ok (op := fun s => .ok (s, .cycle s.nextTickCyc)) h rfl

/-- Settles O48: the word is the query's, and the power-on value is slot 0 of the 4-step mode. -/
theorem queryReturnsTheNextTick : Obligations.QueryReturnsTheNextTick := by
  refine ⟨fun rest => decode_of_legal (w := 0xC000) (by decide) rest, fun s h => exec_qry h, ?_⟩
  have first : State.reset.nextTickCyc = 7459 := tickDelta_fourStep_zero
  rw [exec_qry rfl, first]
  rfl

/-! ## Windows without an event -/

/-- No scheduled cycle is due at `t` or before. -/
def NothingDueBy (t : Nat) (s : State) : Prop :=
  t < s.nextTickCyc ∧ t < s.nextTransferCyc ∧ ∀ pc v, s.pending = some (pc, v) → t < pc

theorem NothingDueBy.after_play {t : Nat} {s : State} (h : NothingDueBy t s) (a b : Nat) :
    NothingDueBy t (play a b s) := by
  simpa [NothingDueBy] using h

theorem eventsAt_of_nothingDue {t : Nat} {s : State} (h : NothingDueBy t s) : eventsAt t s = .ok (s, none) := by
  obtain ⟨h1, h2, h3⟩ := h
  exact eventsAt_tick (by rw [tickIfDue, if_neg (by omega)]) (by omega) fun v hp => Nat.lt_irrefl t (h3 t v hp)

theorem nextBoundary_of_nothingDue {t : Nat} {s : State} (h : NothingDueBy t s) : nextBoundary t s = t := by
  obtain ⟨h1, h2, h3⟩ := h
  exact nextBoundary_eq_target (by omega) (by omega) fun pc v hp => Nat.le_of_lt (h3 pc v hp)

/-- With nothing due by its target `run_to` plays the window and moves the clock, if the target is ahead at all. -/
theorem runTo_of_nothingDue {t : Nat} {s : State} (h : NothingDueBy t s) :
    runTo t s = .ok ({ play s.globalCyc t s with globalCyc := max s.globalCyc t }, none) := by
  by_cases ahead : s.globalCyc < t
  · rw [runTo_one ahead (nextBoundary_of_nothingDue h) (eventsAt_of_nothingDue (h.after_play _ _)),
      Nat.max_eq_right (Nat.le_of_lt ahead)]
  · have notAhead : t ≤ s.globalCyc := Nat.le_of_not_lt ahead
    rw [runTo_stop notAhead, Nat.max_eq_left notAhead, play, Nat.sub_eq_zero_of_le notAhead]
    rfl

/-- Settles O39: `runTo_of_nothingDue` with the target ahead. -/
theorem runWithNoEventDuePlaysTheWindow : Obligations.RunWithNoEventDuePlaysTheWindow := by
  intro t s h ahead h1 h2 h3
  have quiet : NothingDueBy t.toNat s := ⟨h1, h2, h3⟩
  rw [exec_run_of_ok h (runTo_of_nothingDue quiet), Nat.max_eq_right (Nat.le_of_lt ahead), logResult, play_results]

/-! ## Events at the target -/

theorem tickIfDue_frame (n : Nat) (s : State) :
    Post (tickIfDue n s)
      (fun p => p.1.results = s.results ∧ p.1.nextTransferCyc = s.nextTransferCyc ∧ p.1.pending = s.pending)
      (fun e => e.results = s.results) :=
  tickIfDue_post (fun _ => ⟨rfl, rfl, rfl⟩) fun _ => tickEvent_post (fun _ => by simp) fun _ => rfl

theorem transferIfDue_frame (n : Nat) (s : State) :
    Post (transferIfDue n s) (fun u => u.results = s.results ∧ u.pending = s.pending)
      (fun e => e.results = s.results) :=
  transferIfDue_post (fun _ => ⟨rfl, rfl⟩) fun _ => transfer_post (fun _ => ⟨rfl, rfl⟩) fun _ => rfl

theorem resolveIfDue_frame (n : Nat) (s : State) :
    Post (resolveIfDue n s) (fun u => u.results = s.results) (fun e => e.results = s.results) :=
  resolveIfDue_post (fun _ => rfl) fun _ _ => applyFrame_post (fun _ => by simp) fun _ => rfl

theorem eventsAt_results (n : Nat) (s : State) :
    Post (eventsAt n s) (fun p => p.1.results = s.results) (fun e => e.results = s.results) := by
  refine eventsAt_post (Q1 := fun u _ => u.results = s.results) (Q2 := fun u _ => u.results = s.results)
    (Q3 := fun u _ => u.results = s.results) ?_ ?_ ?_
  · exact (tickIfDue_frame n s).mono (fun _ h => h.1) fun _ h => h
  · exact fun s1 _ h1 => (transferIfDue_frame n s1).mono (fun _ h => h.1.trans h1) fun _ h => h.trans h1
  · exact fun s2 _ h2 => (resolveIfDue_frame n s2).mono (fun _ h => h.trans h2) fun _ h => h.trans h2

/-- RUN whose first iteration reaches its target, by the events due there. -/
theorem exec_run_of_events_ok {t : OperandWord} {s u : State} {irq : Option Interrupt} (h : s.fault = none)
    (ahead : s.globalCyc < t.toNat) (boundary : nextBoundary t.toNat s = t.toNat)
    (he : eventsAt t.toNat (play s.globalCyc t.toNat s) = .ok (u, irq)) :
    exec (.run t) s = .next { u with globalCyc := t.toNat, results := s.results ++ [.interrupt irq] } := by
  have results : u.results = s.results := ((eventsAt_results _ _).of_ok he).trans (play_results _ _ _)
  rw [exec_run_of_ok h (runTo_one ahead boundary he), ← results]
  rfl

theorem exec_run_of_events_error {t : OperandWord} {s e : State} (h : s.fault = none) (ahead : s.globalCyc < t.toNat)
    (boundary : nextBoundary t.toNat s = t.toNat) (he : eventsAt t.toNat (play s.globalCyc t.toNat s) = .error e) :
    exec (.run t) s = .next { e with results := s.results ++ [.nothing] } := by
  have results : e.results = s.results := ((eventsAt_results _ _).of_error he).trans (play_results _ _ _)
  rw [exec_run_of_error h (runTo_one_error ahead boundary he), ← results]
  rfl

/-- Settles O40: the first iteration reaches the target, and its three events are taken one after the other; what the
statement reads of the state before is what the earlier events leave alone. -/
theorem runToTheNextTickPerformsIt : Obligations.RunToTheNextTickPerformsIt := by
  intro t s h ahead h1 h2 h3
  have boundary : nextBoundary t.toNat s = t.toNat := nextBoundary_eq_target h1 h2 h3
  have tick : (if t.toNat = s.nextTickCyc then tickEvent t.toNat (play s.globalCyc t.toNat s)
      else .ok (play s.globalCyc t.toNat s, none)) = tickIfDue t.toNat (play s.globalCyc t.toNat s) := by
    rw [tickIfDue, play_nextTickCyc]
  rw [tick]
  cases ht : tickIfDue t.toNat (play s.globalCyc t.toNat s) with
  | error e => exact exec_run_of_events_error h ahead boundary (e := e) (by simp only [eventsAt, ht])
  | ok p =>
    obtain ⟨u1, irq⟩ := p
    obtain ⟨-, transfer1, pending1⟩ := (tickIfDue_frame _ _).of_ok ht
    have transfer : (if t.toNat = s.nextTransferCyc then transfer t.toNat u1 else .ok u1) =
        transferIfDue t.toNat u1 := by
      rw [transferIfDue, transfer1, play_nextTransferCyc]
    dsimp only
    rw [transfer]
    cases hx : transferIfDue t.toNat u1 with
    | error e => exact exec_run_of_events_error h ahead boundary (e := e) (by simp only [eventsAt, ht, hx])
    | ok u2 =>
      obtain ⟨-, pending2⟩ := (transferIfDue_frame _ _).of_ok hx
      have pending : u2.pending = s.pending := pending2.trans (pending1.trans (play_pending _ _ _))
      rcases hp : s.pending with _ | ⟨pc, v⟩
      · exact exec_run_of_events_ok h ahead boundary (u := u2)
          (by simp only [eventsAt, ht, hx, resolveIfDue, pending, hp])
      · have resolve : resolveIfDue t.toNat u2 =
            if pc = t.toNat then applyFrame v t.toNat { u2 with pending := none } else .ok u2 := by
          rw [resolveIfDue, pending, hp]
        dsimp only
        rw [← resolve]
        cases hr : resolveIfDue t.toNat u2 with
        | error e => exact exec_run_of_events_error h ahead boundary (e := e) (by simp only [eventsAt, ht, hx, hr])
        | ok u3 => exact exec_run_of_events_ok h ahead boundary (u := u3) (by simp only [eventsAt, ht, hx, hr])

/-- Where only the pending write is due, the events are its application. -/
theorem eventsAt_only_pending {n : Nat} {v : Byte} {s : State} (hp : s.pending = some (n, v)) (h1 : n < s.nextTickCyc)
    (h2 : n < s.nextTransferCyc) :
    eventsAt n s = (applyFrame v n { s with pending := none }).map fun u => (u, none) := by
  have tick : tickIfDue n s = .ok (s, none) := by rw [tickIfDue, if_neg (by omega)]
  have transfer : transferIfDue n s = .ok s := by rw [transferIfDue, if_neg (by omega)]
  have resolve : resolveIfDue n s = applyFrame v n { s with pending := none } := by simp [resolveIfDue, hp]
  simp only [eventsAt, tick, transfer, resolve]
  cases applyFrame v n { s with pending := none } <;> rfl

/-- Settles O41: applying a write is `applyFrame_of_clear` and `applyFrame_of_set`, and RUN of the pending cycle is that
application after the window. -/
theorem runToThePendingCycleAppliesIt : Obligations.RunToThePendingCycleAppliesIt := by
  refine ⟨fun v e s => ⟨fun bit7 => applyFrame_of_clear bit7 e s, fun bit7 => applyFrame_of_set bit7 e s⟩, ?_⟩
  intro t v s h ahead hp h1 h2
  have boundary : nextBoundary t.toNat s = t.toNat :=
    nextBoundary_eq_target (Nat.le_of_lt h1) (Nat.le_of_lt h2) fun pc v' hp' => by
      rw [hp] at hp'
      cases hp'
      exact Nat.le_refl _
  have events := eventsAt_only_pending (n := t.toNat) (v := v) (s := play s.globalCyc t.toNat s) (by simpa using hp)
    (by simpa using h1) (by simpa using h2)
  have flag := play_irqFlag s.globalCyc t.toNat s
  refine ⟨fun bit7 => ?_, fun bit7 => ?_⟩
  · rw [applyFrame_of_clear bit7] at events
    split at events
    · next fits => rw [if_pos fits, exec_run_of_events_ok h ahead boundary events, flag]
    · next overflows => rw [if_neg overflows, exec_run_of_events_error h ahead boundary events]
  · rw [applyFrame_of_set bit7] at events
    split at events
    · next fits =>
      rw [if_pos fits, exec_run_of_events_ok h ahead boundary events, flag]
      rfl
    · next overflows => rw [if_neg overflows, exec_run_of_events_error h ahead boundary events]

end Sys2Proof.Machine
end

section
/-! A status read of the cycle of a raise (R165, R377), and `run_to` over many events: it reaches its target (R147,
R385), and a run may be cut at any cycle (R146). -/

namespace Sys2Proof.Machine

/-! ## The status read at the raise -/

/-- The tick at step 3 of the 4-step mode, unsuppressed, is the raise (R149, R153). -/
theorem tickEvent_raise {n : Nat} {s : State} (mode : s.mode = .fourStep) (tick : s.tick = 3)
    (unsuppressed : s.suppress = false) (fits : n + tickDelta .fourStep 4 ≤ maxCycle) :
    tickEvent n s = .ok ({ lengthClock (envelopeClock s) with
      nextTickCyc := n + tickDelta .fourStep 4, irqFlag := true, tick := 0 }, some .frame) := by
  rw [tickEvent_ok (by rwa [mode, tick]), mode, tick]
  refine (congrArg Except.ok (fourStepLast_eq _)).trans ?_
  simp [mode, unsuppressed]

theorem tickEvent_raise_error {n : Nat} {s : State} (mode : s.mode = .fourStep) (tick : s.tick = 3)
    (overflows : maxCycle < n + tickDelta .fourStep 4) :
    tickEvent n s = .error (raiseFault .cycleOverflow (n + tickDelta .fourStep 4) { s with tick := 4 }) := by
  rw [tickEvent_error (by rwa [mode, tick]), mode, tick]

/-- A `run_to` to a tick that is due alone is the window and that tick. -/
theorem runTo_tick_ok {t : Nat} {s u : State} {irq : Option Interrupt} (ahead : s.globalCyc < t)
    (due : t = s.nextTickCyc) (later : t < s.nextTransferCyc) (idle : s.pending = none)
    (he : tickEvent t (play s.globalCyc t s) = .ok (u, irq)) : runTo t s = .ok ({ u with globalCyc := t }, irq) := by
  have boundary : nextBoundary t s = t :=
    nextBoundary_eq_target (Nat.le_of_eq due) (Nat.le_of_lt later) (by simp [idle])
  have tick : tickIfDue t (play s.globalCyc t s) = .ok (u, irq) := by
    rw [tickIfDue, play_nextTickCyc, if_pos due, he]
  obtain ⟨-, transfer, pending⟩ := (tickIfDue_frame _ _).of_ok tick
  refine runTo_one ahead boundary (eventsAt_tick tick ?_ ?_)
  · rw [transfer, play_nextTransferCyc]
    exact Nat.ne_of_lt later
  · intro v hv
    rw [pending, play_pending, idle] at hv
    cases hv

theorem runTo_tick_error {t : Nat} {s e : State} (ahead : s.globalCyc < t) (due : t = s.nextTickCyc)
    (later : t < s.nextTransferCyc) (idle : s.pending = none) (he : tickEvent t (play s.globalCyc t s) = .error e) :
    runTo t s = .error e := by
  have boundary : nextBoundary t s = t :=
    nextBoundary_eq_target (Nat.le_of_eq due) (Nat.le_of_lt later) (by simp [idle])
  refine runTo_one_error ahead boundary ?_
  rw [eventsAt, tickIfDue, play_nextTickCyc, if_pos due, he]

/-- Settles O46: nothing is due in the first run, the flag is cleared, and the second run is the raise. -/
theorem statusReadAtTheRaiseKeepsTheFlag : Obligations.StatusReadAtTheRaiseKeepsTheFlag := by
  intro c s h ahead due later idle mode tick unsuppressed
  have quiet : NothingDueBy (c.toNat - 1) s := ⟨by omega, by omega, by simp [idle]⟩
  have first := runTo_of_nothingDue quiet
  rw [Nat.max_eq_right (by omega)] at first
  have byte : statusByte { play s.globalCyc (c.toNat - 1) s with globalCyc := c.toNat - 1 } = statusByte s :=
    statusByte_play _ _ _
  generalize hw : clearIrq { play s.globalCyc (c.toNat - 1) s with globalCyc := c.toNat - 1 } = w
  have ahead' : w.globalCyc < c.toNat := by
    rw [← hw]
    exact Nat.sub_one_lt (by omega)
  have due' : c.toNat = w.nextTickCyc := by simpa [← hw] using due
  have later' : c.toNat < w.nextTransferCyc := by simpa [← hw] using later
  have idle' : w.pending = none := by simpa [← hw] using idle
  have mode' : (play w.globalCyc c.toNat w).mode = .fourStep := by simpa [← hw] using mode
  have tick' : (play w.globalCyc c.toNat w).tick = 3 := by simpa [← hw] using tick
  by_cases fits : c.toNat + tickDelta .fourStep 4 ≤ maxCycle
  · have suppress' : (play w.globalCyc c.toNat w).suppress = false := by simpa [← hw] using unsuppressed
    have second := runTo_tick_ok ahead' due' later' idle' (tickEvent_raise mode' tick' suppress' fits)
    rw [← hw] at second
    refine ⟨_, exec_rdStatus_of_ok h first second, ?_⟩
    rw [if_pos fits, byte]
    simp [h]
  · have second := runTo_tick_error ahead' due' later' idle' (tickEvent_raise_error mode' tick' (Nat.lt_of_not_le fits))
    rw [← hw] at second
    refine ⟨_, exec_rdStatus_of_error h first second, ?_⟩
    rw [if_neg fits]
    simp

/-! ## Reaching the target -/

/-- Settles O42: a run that ends without a fault is `runTo_reaches` and `runTo_scheduled`, the only fault is
`runTo_fault`'s. -/
theorem runReachesItsTarget : Obligations.RunReachesItsTarget := by
  intro t s h scheduled
  have fault := runTo_fault (t := t.toNat) h
  cases hr : runTo t.toNat s with
  | ok p => exact ⟨_, exec_run_of_ok h hr, .inl ⟨fault.of_ok hr, (runTo_reaches scheduled).of_ok hr,
      (runTo_scheduled scheduled).of_ok hr⟩⟩
  | error e => exact ⟨_, exec_run_of_error h hr, .inr (fault.of_error hr : e.fault = _)⟩

/-! ## What the events do not read -/

/-- The same block at another clock and with other results observed: no event reads either. -/
def State.relabel (g : Nat) (rs : List OpResult) (s : State) : State := { s with globalCyc := g, results := rs }

section relabel
variable {n : Nat} {s : State} (g : Nat) (rs : List OpResult)

theorem playCycles_relabel (k : Nat) (s : State) : playCycles k (s.relabel g rs) = (playCycles k s).relabel g rs := by
  induction k generalizing s with
  | zero => rfl
  | succ k ih => exact ih (playCycle s)

theorem stepActions_relabel (m : FrameMode) (k : Nat) (s : State) :
    stepActions m k (s.relabel g rs) = ((stepActions m k s).1.relabel g rs, (stepActions m k s).2) := by
  unfold stepActions
  split
  case h_4 => rw [fourStepLast_eq, fourStepLast_eq]; rfl
  all_goals rfl

theorem tickEvent_relabel {s1 : State} {i : Option Interrupt} (h : tickEvent n s = .ok (s1, i)) :
    tickEvent n (s.relabel g rs) = .ok (s1.relabel g rs, i) := by
  by_cases fits : n + tickDelta s.mode (s.tick + 1) ≤ maxCycle
  · have acts := stepActions_relabel g rs s.mode (s.tick + 1)
      { s with tick := s.tick + 1, nextTickCyc := n + tickDelta s.mode (s.tick + 1) }
    rw [tickEvent_ok fits] at h
    rw [Except.ok.inj h] at acts
    rw [tickEvent_ok (s := s.relabel g rs) fits]
    exact congrArg Except.ok acts
  · rw [tickEvent_error (Nat.lt_of_not_le fits)] at h
    cases h

theorem transfer_relabel {s1 : State} (h : transfer n s = .ok s1) :
    transfer n (s.relabel g rs) = .ok (s1.relabel g rs) := by
  by_cases fits : n + clocksNeeded (resampleCarry s.carry s.trace) ≤ maxCycle
  · rw [transfer_ok fits] at h
    cases h
    exact transfer_ok (s := s.relabel g rs) fits
  · rw [transfer_error (Nat.lt_of_not_le fits)] at h
    cases h

theorem applyFrame_relabel {v : Byte} {s1 : State} (h : applyFrame v n s = .ok s1) :
    applyFrame v n (s.relabel g rs) = .ok (s1.relabel g rs) := by
  by_cases fits : n + tickDelta (frameMode v) 0 ≤ maxCycle
  · rw [applyFrame_ok fits] at h
    cases h
    rw [applyFrame_ok fits, clearIrqIf_eq, clearIrqIf_eq]
    cases frameMode v <;> rfl
  · rw [applyFrame_error (Nat.lt_of_not_le fits)] at h
    cases h

theorem tickIfDue_relabel {s1 : State} {i : Option Interrupt} (h : tickIfDue n s = .ok (s1, i)) :
    tickIfDue n (s.relabel g rs) = .ok (s1.relabel g rs, i) := by
  by_cases due : n = s.nextTickCyc
  · rw [tickIfDue, if_pos due] at h
    rw [tickIfDue]
    exact (if_pos due).trans (tickEvent_relabel g rs h)
  · rw [tickIfDue, if_neg due] at h
    cases h
    exact if_neg due

theorem transferIfDue_relabel {s1 : State} (h : transferIfDue n s = .ok s1) :
    transferIfDue n (s.relabel g rs) = .ok (s1.relabel g rs) := by
  by_cases due : n = s.nextTransferCyc
  · rw [transferIfDue, if_pos due] at h
    rw [transferIfDue]
    exact (if_pos due).trans (transfer_relabel g rs h)
  · rw [transferIfDue, if_neg due] at h
    cases h
    exact if_neg due

theorem resolveIfDue_relabel {s1 : State} (h : resolveIfDue n s = .ok s1) :
    resolveIfDue n (s.relabel g rs) = .ok (s1.relabel g rs) := by
  have same : (s.relabel g rs).pending = s.pending := rfl
  unfold resolveIfDue at h ⊢
  rw [same]
  split at h
  · split at h
    · next due => exact (if_pos due).trans (applyFrame_relabel g rs h)
    · next due =>
      cases h
      exact if_neg due
  · cases h
    rfl

theorem eventsAt_relabel {s1 : State} {i : Option Interrupt} (h : eventsAt n s = .ok (s1, i)) :
    eventsAt n (s.relabel g rs) = .ok (s1.relabel g rs, i) := by
  unfold eventsAt at h
  cases ht : tickIfDue n s with
  | error e => simp [ht] at h
  | ok p =>
    cases hx : transferIfDue n p.1 with
    | error e => simp [ht, hx] at h
    | ok s2 =>
      cases hr : resolveIfDue n s2 with
      | error e => simp [ht, hx, hr] at h
      | ok s3 =>
        simp only [ht, hx, hr] at h
        cases h
        simp only [eventsAt, tickIfDue_relabel g rs ht, transferIfDue_relabel g rs hx, resolveIfDue_relabel g rs hr]

end relabel

/-! ## Cutting a run -/

/-- An iteration may start anywhere in its window: having played up to `g` it does from there what it does from its
start, whatever results have been observed. -/
theorem runIteration_relabel {t g : Nat} {rs : List OpResult} {s s1 : State} {i : Option Interrupt}
    (hg : s.globalCyc ≤ g) (hn : g ≤ nextBoundary t s) (h : runIteration t s = .ok (s1, i)) :
    runIteration t ((play s.globalCyc g s).relabel g rs) = .ok ({ s1 with results := rs }, i) := by
  have boundary : nextBoundary t ((play s.globalCyc g s).relabel g rs) = nextBoundary t s := by
    simp [nextBoundary, State.relabel]
  have window : play g (nextBoundary t s) ((play s.globalCyc g s).relabel g rs) =
      (play s.globalCyc (nextBoundary t s) s).relabel g rs := by
    rw [← play_play hg hn]
    exact playCycles_relabel g rs _ _
  unfold runIteration at h ⊢
  cases he : eventsAt (nextBoundary t s) (play s.globalCyc (nextBoundary t s) s) with
  | error e => simp [he] at h
  | ok p =>
    simp only [he] at h
    cases h
    rw [boundary]
    dsimp only [State.relabel] at window ⊢
    rw [window]
    have events := eventsAt_relabel g rs he
    dsimp only [State.relabel] at events
    rw [events]

/-- With its schedule ahead, a run is its first iteration and the run from there. -/
theorem runTo_step {t : Nat} {s s1 : State} {i : Option Interrupt} (scheduled : Scheduled s) (ahead : s.globalCyc < t)
    (h : runIteration t s = .ok (s1, i)) : runTo t s = (runTo t s1).map fun p => (p.1, orIrq i p.2) := by
  obtain ⟨scheduled1, clock1⟩ := (runIteration_scheduled scheduled ahead).of_ok h
  have enough : runLoop (3 * t + 1) t s1 none = runLoop (3 * t + 2) t s1 none :=
    runLoop_enough scheduled1 (by omega) (by omega)
  rw [runTo, runLoop_step_ok ahead h, none_orIrq, runLoop_irq, enough, runTo]

/-- A run does not read the results observed so far. -/
theorem runTo_results {t : Nat} {s v : State} {r : Option Interrupt} (rs : List OpResult) (scheduled : Scheduled s)
    (h : runTo t s = .ok (v, r)) : runTo t { s with results := rs } = .ok ({ v with results := rs }, r) := by
  unfold runTo at h ⊢
  generalize 3 * t + 2 = fuel at h ⊢
  generalize (none : Option Interrupt) = irq at h ⊢
  induction fuel generalizing s irq with
  | zero =>
    cases h
    rfl
  | succ fuel ih =>
    by_cases ahead : s.globalCyc < t
    · cases hi : runIteration t s with
      | error e =>
        rw [runLoop_step_error ahead hi] at h
        cases h
      | ok p =>
        have same := runIteration_relabel (rs := rs) (Nat.le_refl _) (Nat.le_of_lt (scheduled.lt_nextBoundary ahead)) hi
        rw [play_self] at same
        rw [runLoop_step_ok ahead hi] at h
        exact (runLoop_step_ok (s := s.relabel s.globalCyc rs) ahead same).trans
          (ih ((runIteration_scheduled scheduled ahead).of_ok hi).1 _ h)
    · have stop : t ≤ s.globalCyc := Nat.le_of_not_lt ahead
      rw [runLoop_stop stop] at h
      cases h
      exact runLoop_stop (s := v.relabel v.globalCyc rs) stop

theorem runIteration_results (t : Nat) (s : State) :
    Post (runIteration t s) (fun p => p.1.results = s.results) (fun e => e.results = s.results) := by
  refine runIteration_post (Q := fun u _ => u.results = s.results) ?_
  exact (eventsAt_results _ _).mono (fun _ h => h.trans (play_results _ _ _)) fun _ h => h.trans (play_results _ _ _)

/-- An event due by the nearer target is the boundary of the runs to both. -/
theorem nextBoundary_of_le {t1 t2 : Nat} {s : State} (le : t1 ≤ t2) (due : nextBoundary t2 s ≤ t1) :
    nextBoundary t1 s = nextBoundary t2 s := by
  unfold nextBoundary at due ⊢
  cases hp : s.pending <;> simp only [hp] at due ⊢ <;> omega

/-- Nothing is due before the boundary of a run. -/
theorem nothingDueBy_of_lt_nextBoundary {t1 t2 : Nat} {s : State} (h : t1 < nextBoundary t2 s) : NothingDueBy t1 s := by
  obtain ⟨-, h1, h2, h3⟩ := nextBoundary_le t2 s
  exact ⟨by omega, by omega, fun pc v hp => Nat.lt_of_lt_of_le h (h3 pc v hp)⟩

/-- Inside the window of its first iteration a run may be cut by playing up to the cut. -/
theorem runTo_of_window {t1 t2 : Nat} {s s1 : State} {i : Option Interrupt} (scheduled : Scheduled s)
    (ahead : s.globalCyc < t1) (inside : t1 < nextBoundary t2 s) (hi : runIteration t2 s = .ok (s1, i)) :
    runTo t2 { play s.globalCyc t1 s with globalCyc := t1 } = runTo t2 s := by
  have ahead2 : t1 < t2 := Nat.lt_of_lt_of_le inside (nextBoundary_le t2 s).1
  have cut := runIteration_relabel (rs := s.results) (Nat.le_of_lt ahead) (Nat.le_of_lt inside) hi
  have start : (play s.globalCyc t1 s).relabel t1 s.results = { play s.globalCyc t1 s with globalCyc := t1 } := by
    rw [← play_results s.globalCyc t1 s]
    rfl
  have scheduled1 : Scheduled { play s.globalCyc t1 s with globalCyc := t1 } :=
    (nothingDueBy_of_lt_nextBoundary inside).after_play _ _
  rw [start, ← (runIteration_results t2 s).of_ok hi] at cut
  rw [runTo_step scheduled1 ahead2 cut, runTo_step scheduled (Nat.lt_trans ahead ahead2) hi]

/-- A run that ends may be cut at any cycle `t1` of it: either its next event is due by `t1`, and its first iteration is
that of the run to `t1` too, or nothing is, and the cut is inside the window of its first iteration. -/
theorem runTo_cut {t1 t2 : Nat} (le : t1 ≤ t2) {s v : State} {r : Option Interrupt} (scheduled : Scheduled s)
    (h : runTo t2 s = .ok (v, r)) :
    ∃ w r1 r2, runTo t1 s = .ok (w, r1) ∧ runTo t2 w = .ok (v, r2) ∧ r = orIrq r1 r2 := by
  induction hm : t2 - s.globalCyc using Nat.strong_induction_on generalizing s r with
  | _ m ih =>
    by_cases ahead1 : s.globalCyc < t1
    · have ahead2 : s.globalCyc < t2 := Nat.lt_of_lt_of_le ahead1 le
      have later := scheduled.lt_nextBoundary ahead2
      cases hi : runIteration t2 s with
      | error e =>
        rw [runTo, runLoop_step_error ahead2 hi] at h
        cases h
      | ok p =>
        obtain ⟨s1, i⟩ := p
        obtain ⟨scheduled1, clock1⟩ := (runIteration_scheduled scheduled ahead2).of_ok hi
        by_cases due : nextBoundary t2 s ≤ t1
        · have first : runIteration t1 s = .ok (s1, i) := by
            rw [← hi, runIteration, runIteration, nextBoundary_of_le le due]
          have rest := runTo_step scheduled ahead2 hi
          cases hr : runTo t2 s1 with
          | error e =>
            rw [hr, h] at rest
            cases rest
          | ok q =>
            rw [hr, h] at rest
            cases rest
            obtain ⟨w, r1, r2, h1, h2, ors⟩ := ih _ (by omega) scheduled1 hr rfl
            refine ⟨w, orIrq i r1, r2, ?_, h2, by rw [orIrq_assoc, ← ors]⟩
            rw [runTo_step scheduled ahead1 first, h1]
            rfl
        · have inside : t1 < nextBoundary t2 s := Nat.lt_of_not_le due
          have quiet := runTo_of_nothingDue (nothingDueBy_of_lt_nextBoundary inside)
          rw [Nat.max_eq_right (Nat.le_of_lt ahead1)] at quiet
          exact ⟨_, none, r, quiet, (runTo_of_window scheduled ahead1 inside hi).trans h, rfl⟩
    · exact ⟨s, none, r, runTo_stop (Nat.le_of_not_lt ahead1), h, rfl⟩

theorem runTo_keeps_results (t : Nat) (s : State) :
    Post (runTo t s) (fun p => p.1.results = s.results) (fun e => e.results = s.results) :=
  runTo_post (P := fun u => u.results = s.results)
    (fun u hu _ => (runIteration_results t u).mono (fun _ h => h.trans hu) fun _ h => h.trans hu) s rfl

/-- Settles O43: the cut is `runTo_cut`, and the result that the first RUN logs is not read by the second. -/
theorem runIsAssociative : Obligations.RunIsAssociative := by
  intro t1 t2 s u h scheduled _ le hu noFault
  rcases exec_run_cases h hu with ⟨v, r, hr, rfl⟩ | ⟨e, he, rfl⟩
  · obtain ⟨w, r1, r2, h1, h2, ors⟩ := runTo_cut le scheduled hr
    have wFault : w.fault = none := (runTo_fault h).of_ok h1
    have wResults : w.results = s.results := (runTo_keeps_results _ _).of_ok h1
    have vResults : v.results = s.results := (runTo_keeps_results _ _).of_ok hr
    have second := runTo_results (w.results ++ [.interrupt r1]) ((runTo_scheduled scheduled).of_ok h1) h2
    refine ⟨_, _, r1, r2, exec_run_of_ok h h1, exec_run_of_ok (s := logResult (.interrupt r1) w) wFault second, rfl,
      ?_, ?_⟩
    · simp [wResults]
    · simp [vResults, ors]
  · have fault : e.fault = some .cycleOverflow := (runTo_fault h).of_error he
    rw [logResult_fault, fault] at noFault
    cases noFault

end Sys2Proof.Machine
end

section
/-! Rules of the whole machine (spec/60_exceptions.md): what an operation adds to the results, what a register write and
a run leave alone, and who sets and clears the sticky flag. -/

namespace Sys2Proof.Machine

/-! ## Bounds on the parts -/

theorem Post.and {α : Type} {r : Except State α} {Q Q' : α → Prop} {E E' : State → Prop} (h : Post r Q E)
    (h' : Post r Q' E') : Post r (fun a => Q a ∧ Q' a) (fun e => E e ∧ E' e) := by
  cases r with
  | ok a => exact ⟨h, h'⟩
  | error e => exact ⟨h, h'⟩

/-- What the three events keep, the events due at a cycle keep. -/
theorem eventsAt_keeps {P : State → Prop} (htick : ∀ n s, P s → Post (tickEvent n s) (fun p => P p.1) P)
    (htransfer : ∀ n s, P s → Post (transfer n s) P P)
    (happly : ∀ v n s, P s → s.pending = some (n, v) → Post (applyFrame v n { s with pending := none }) P P)
    (n : Nat) (s : State) (h : P s) : Post (eventsAt n s) (fun p => P p.1) P := by
  refine eventsAt_post (Q1 := fun s _ => P s) (Q2 := fun s _ => P s) (Q3 := fun s _ => P s) ?_ ?_ ?_
  · exact tickIfDue_post (fun _ => h) fun _ => htick _ _ h
  · exact fun s1 _ h1 => transferIfDue_post (fun _ => h1) fun _ => htransfer _ _ h1
  · exact fun s2 _ h2 => resolveIfDue_post (fun _ => h2) fun v hp => happly v _ _ h2 hp

/-- What a register write leaves alone in a state (R169, R170): the clock, the mixer, what the host sends and what it
observes. -/
structure SameRun (s u : State) : Prop where
  results : u.results = s.results
  globalCyc : u.globalCyc = s.globalCyc
  nextTransferCyc : u.nextTransferCyc = s.nextTransferCyc
  lastFrameCyc : u.lastFrameCyc = s.lastFrameCyc
  trace : u.trace = s.trace
  carry : u.carry = s.carry
  sink : u.sink = s.sink
  queue : u.queue = s.queue

theorem plainWrite_sameRun {i : Instr} {s s' : State} (h : plainWrite i s = some s') : SameRun s s' := by
  rw [plainWrite_frame h]
  exact ⟨rfl, rfl, rfl, rfl, rfl, rfl, rfl, rfl⟩

theorem writeFrame_sameRun (v : Byte) (s : State) : Post (writeFrame v s) (SameRun s) (SameRun s) :=
  writeFrame_post (fun _ _ => by constructor <;> simp) (fun _ => by constructor <;> simp)
    fun _ => applyFrame_post (fun _ => by constructor <;> simp) fun _ => by constructor <;> simp

/-- What a `$17` write does to the fault mark (R343). -/
theorem writeFrame_fault (v : Byte) (s : State) :
    Post (writeFrame v s) (fun u => u.fault = s.fault) (fun e => e.fault = some .cycleOverflow) :=
  writeFrame_post (fun _ _ => by simp) (fun _ => rfl) fun _ => applyFrame_post (fun _ => by simp) fun _ => rfl

/-- What holds of an operation's result, and of the state its fault leaves, holds of the state the instruction
answers. -/
theorem Post.outcome {α : Type} {r : Except State α} {u : State} {f : α → State} {g : State → State} {Q : α → Prop}
    {E R : State → Prop} (hu : Post r (fun a => u = f a) (fun e => u = g e)) (h : Post r Q E)
    (hq : ∀ a, Q a → R (f a)) (he : ∀ e, E e → R (g e)) : R u := by
  cases r with
  | ok a => exact hu ▸ hq a h
  | error e => exact hu ▸ he e h

theorem Post.map {α β : Type} {r : Except State α} {f : α → β} {Q : β → Prop} {E : State → Prop}
    (h : Post r (fun a => Q (f a)) E) : Post (r.map f) Q E := by
  cases r with
  | ok a => exact h
  | error e => exact h

theorem runIteration_results_fault {rs : List OpResult} {f : Option Fault} (t : Nat) (s : State)
    (h : s.results = rs ∧ s.fault = f) :
    Post (runIteration t s) (fun p => p.1.results = rs ∧ p.1.fault = f)
      (fun e => e.results = rs ∧ e.fault = some .cycleOverflow) :=
  ((runIteration_results t s).and (runIteration_fault h.2)).mono (fun _ hq => ⟨hq.1.trans h.1, hq.2⟩)
    fun _ he => ⟨he.1.trans h.1, he.2⟩

/-- No operation logs a result of its own, and a fault it ends in is the overflow of `schedule`. -/
theorem operation_results_fault (i : Instr) (s : State) :
    Post (operation i s) (fun p => p.1.results = s.results ∧ p.1.fault = s.fault)
      (fun e => e.results = s.results ∧ e.fault = some .cycleOverflow) := by
  unfold operation
  split
  · next s' hp =>
    rw [plainWrite_frame hp]
    exact ⟨rfl, rfl⟩
  · split
    · next v _ =>
      exact Post.map (((writeFrame_sameRun v s).and (writeFrame_fault v s)).mono
        (fun _ ⟨same, fault⟩ => ⟨same.results, fault⟩) fun _ ⟨same, fault⟩ => ⟨same.results, fault⟩)
    · exact runOperation_post (P := fun u => u.results = s.results ∧ u.fault = s.fault)
        (fun u hu _ => runIteration_results_fault _ u hu) s ⟨rfl, rfl⟩
    · exact readStatus_post (P := fun u => u.results = s.results ∧ u.fault = s.fault)
        (fun t u hu _ => runIteration_results_fault t u hu) (fun _ h => h) s ⟨rfl, rfl⟩
    · exact ⟨rfl, rfl⟩

/-! ## Every operation ends -/

/-- Settles O51: a faulted state is left as it is, and the idle result is logged. -/
theorem faultedStateNeverChanges : Obligations.FaultedStateNeverChanges := by
  intro i s faulted
  refine ⟨idleResult i, idleResult_cases i, ?_⟩
  rw [exec_eq_perform, perform_faulted faulted]
  rfl

theorem exec_next (i : Instr) (s : State) : ∃ u, exec i s = .next u := by
  rw [exec_eq_perform]
  exact perform_next _ _ _

/-- Settles O52: `perform` logs one result, and the operation inside it is `operation_results_fault`. -/
theorem everyOperationEnds : Obligations.EveryOperationEnds := by
  intro i s
  have frame := operation_results_fault i s
  cases hf : s.fault with
  | some k => exact ⟨_, _, (exec_eq_perform i s).trans (perform_faulted (by simp [hf])), rfl, .inl hf⟩
  | none =>
    cases ho : operation i s with
    | ok p =>
      obtain ⟨results, fault⟩ := frame.of_ok ho
      exact ⟨_, _, (exec_eq_perform i s).trans (perform_ok hf ho), congrArg (· ++ _) results, .inl (fault.trans hf)⟩
    | error e =>
      obtain ⟨results, fault⟩ := frame.of_error ho
      exact ⟨_, _, (exec_eq_perform i s).trans (perform_error hf ho), congrArg (· ++ _) results, .inr fault⟩

/-- Everything a register write can do from a state with no fault. -/
theorem exec_write_cases {i : Instr} {s u : State} (write : isWrite i = true) (h : s.fault = none)
    (hu : exec i s = .next u) :
    (∃ s', plainWrite i s = some s' ∧ u = logResult .nothing s') ∨
      ∃ v, i = .wrFrame v ∧ Post (writeFrame v s) (fun s' => u = logResult .nothing s')
        (fun s' => u = logResult .nothing s') := by
  rcases exec_cases hu with ⟨faulted, -⟩ | ⟨-, plain | frame | ⟨t, rfl, -⟩ | ⟨c, rfl, -⟩ | ⟨rfl, -⟩⟩
  · simp [h] at faulted
  · exact .inl plain
  · exact .inr frame
  all_goals cases write

/-- Settles O49: a plain write touches the channels, a `$17` write the sequencer. -/
theorem writesReturnNothingAndMoveNoClock : Obligations.WritesReturnNothingAndMoveNoClock := by
  intro i s write h
  obtain ⟨u, hu⟩ := exec_next i s
  have logged : ∀ s', SameRun s s' → SameRun { s with results := s.results ++ [.nothing] } (logResult .nothing s') :=
    fun _ same => { same with results := congrArg (· ++ _) same.results }
  have same : SameRun { s with results := s.results ++ [.nothing] } u := by
    rcases exec_write_cases write h hu with ⟨s', hp, rfl⟩ | ⟨v, rfl, hw⟩
    · exact logged _ (plainWrite_sameRun hp)
    · exact hw.outcome (writeFrame_sameRun v s) logged logged
  exact ⟨u, hu, same.results, same.globalCyc, same.nextTransferCyc, same.lastFrameCyc, same.trace, same.carry,
    same.sink, same.queue⟩

/-! ## What a run and a status read leave alone (R85, R89) -/

/-- A pulse channel's fields that only a register write writes, the rest at 0. -/
def Pulse.settings (p : Pulse) : Pulse :=
  { Pulse.reset p.isSecond with
    len := { enabled := p.len.enabled, count := 0 }
    env := { Envelope.reset with halt := p.env.halt, constVol := p.env.constVol, vol := p.env.vol }
    duty := p.duty
    sweepEn := p.sweepEn
    sweepPeriod := p.sweepPeriod
    negate := p.negate
    shift := p.shift }

/-- The triangle's fields that only a register write writes, the rest at 0. -/
def Triangle.settings (t : Triangle) : Triangle :=
  { Triangle.reset with
    len := { enabled := t.len.enabled, count := 0 }
    control := t.control
    reloadVal := t.reloadVal
    period := t.period }

/-- The noise channel's fields that only a register write writes, the rest at power-on. -/
def Noise.settings (n : Noise) : Noise :=
  { Noise.reset with
    len := { enabled := n.len.enabled, count := 0 }
    env := { Envelope.reset with halt := n.env.halt, constVol := n.env.constVol, vol := n.env.vol }
    mode := n.mode
    periodIdx := n.periodIdx }

/-- The host's stream and what only register writes write, the rest at power-on. -/
def State.settings (s : State) : State :=
  { State.reset with
    p1 := s.p1.settings, p2 := s.p2.settings, tri := s.tri.settings, noi := s.noi.settings, queue := s.queue }

theorem playCycle_settings (s : State) : (playCycle s).settings = s.settings := by
  simp [State.settings, Pulse.settings, Triangle.settings, Noise.settings]

theorem envelopeClock_settings (s : State) : (envelopeClock s).settings = s.settings := by
  simp [State.settings, Pulse.settings, Triangle.settings, Noise.settings, Pulse.envelopeClock, Triangle.envelopeClock,
    Noise.envelopeClock]

theorem lengthClock_settings (s : State) : (lengthClock s).settings = s.settings := by
  simp [State.settings, Pulse.settings, Triangle.settings, Noise.settings, Pulse.lengthClock, Triangle.lengthClock,
    Noise.lengthClock]

theorem immediateClock_settings (m : FrameMode) (s : State) : (immediateClock m s).settings = s.settings := by
  cases m
  · rfl
  · exact (lengthClock_settings _).trans (envelopeClock_settings s)

theorem clearIrqIf_settings (b : Bool) (s : State) : (clearIrqIf b s).settings = s.settings := by
  cases b <;> rfl

theorem stepActions_settings (m : FrameMode) (k : Nat) (s : State) : (stepActions m k s).1.settings = s.settings :=
  stepActions_keeps (P := fun u => u.settings = s.settings) (fun u h => (envelopeClock_settings u).trans h)
    (fun u h => (lengthClock_settings u).trans h) (fun _ _ h => h) (fun _ h => h) m k s rfl

theorem runIteration_settings {r : State} (t : Nat) (s : State) (h : s.settings = r) :
    Post (runIteration t s) (fun p => p.1.settings = r) (fun e => e.settings = r) :=
  runIteration_keeps (P := fun u => u.settings = r) (fun u hu => (playCycle_settings u).trans hu)
    (fun _ _ hu => tickEvent_post (fun _ => (stepActions_settings _ _ _).trans hu) fun _ => hu)
    (fun _ _ hu => transfer_post (fun _ => hu) fun _ => hu)
    (fun _ _ _ hu _ => applyFrame_post
      (fun _ => (immediateClock_settings _ _).trans ((clearIrqIf_settings _ _).trans hu)) fun _ => hu)
    (fun _ _ hu => hu) t s h

/-- A run and a status read keep the settings. -/
theorem exec_settings {i : Instr} {s u : State} (hi : (∃ t, i = .run t) ∨ ∃ c, i = .rdStatus c)
    (h : exec i s = .next u) : u.settings = s.settings := by
  rw [exec_eq_perform] at h
  refine perform_keeps (P := fun u => u.settings = s.settings) (fun _ _ hu => hu) rfl (fun _ => ?_) h
  rcases hi with ⟨t, rfl⟩ | ⟨c, rfl⟩
  · exact runOperation_post (fun u hu _ => runIteration_settings _ u hu) s rfl
  · exact readStatus_post (fun t u hu _ => runIteration_settings t u hu) (fun _ hu => hu) s rfl

/-- Settles O50: the fields are the settings', which `exec_settings` keeps. -/
theorem runAndStatusReadFrame : Obligations.RunAndStatusReadFrame := by
  intro i s u hi h
  have same := exec_settings hi h
  simp only [State.settings, Pulse.settings, Pulse.reset, Triangle.settings, Noise.settings, State.mk.injEq,
    Pulse.mk.injEq, Triangle.mk.injEq, Noise.mk.injEq, LengthUnit.mk.injEq, Envelope.mk.injEq, and_true,
    true_and] at same
  simp only [same, and_self]

end Sys2Proof.Machine
end

section
/-! The sticky interrupt flag over a whole operation (spec/60_exceptions.md R347 to R349): what clears it, and when
nothing sets it or raises. -/

namespace Sys2Proof.Machine

theorem plainWrite_irqFlag {i : Instr} {s s' : State} (h : plainWrite i s = some s') : s'.irqFlag = s.irqFlag := by
  rw [plainWrite_frame h]

/-! ## What clears the flag (R349) -/

/-- The flag is set, and no pending write is one that clears it. -/
def FlagHeld (s : State) : Prop := s.irqFlag = true ∧ ∀ pc v, s.pending = some (pc, v) → frameSuppress v = false

/-- An iteration of the loop clears the flag only by a pending write with bit 6 set. -/
theorem runIteration_flagHeld (t : Nat) (s : State) (h : FlagHeld s) :
    Post (runIteration t s) (fun p => FlagHeld p.1) FlagHeld := by
  refine runIteration_keeps (fun _ hu => hu) (fun n u hu => tickEvent_post (fun _ => ?_) fun _ => hu)
    (fun n u hu => transfer_post (fun _ => hu) fun _ => hu)
    (fun v n u hu hp => applyFrame_post (fun _ => ?_) fun _ => ⟨hu.1, by simp⟩) (fun _ _ hu => hu) t s h
  · exact ⟨stepActions_irq _ _ _ hu.1, by simpa using hu.2⟩
  · exact ⟨by simp [hu.2 n v hp, hu.1], by simp⟩

/-- A `$17` write with bit 6 clear leaves the flag (R158). -/
theorem writeFrame_irqFlag {v : Byte} (h : frameSuppress v = false) (s : State) :
    Post (writeFrame v s) (fun u => u.irqFlag = s.irqFlag) (fun e => e.irqFlag = s.irqFlag) :=
  writeFrame_post (fun _ _ => by simp [h]) (fun _ => by simp [h])
    fun _ => applyFrame_post (fun _ => by simp [h]) fun _ => by simp [h]

/-- Settles O53: a plain write and the query leave the flag, a `$17` write with bit 6 clear is `writeFrame_irqFlag`, and
a run without such a write pending is `runIteration_flagHeld`. -/
theorem onlyThreeThingsClearTheFlag : Obligations.OnlyThreeThingsClearTheFlag := by
  intro i s u hu set cleared
  rcases exec_cases hu with
    ⟨-, r, -, rfl⟩ | ⟨-, ⟨s', hp, rfl⟩ | ⟨v, rfl, hw⟩ | ⟨t, rfl, hr⟩ | ⟨c, rfl, -⟩ | ⟨rfl, rfl⟩⟩
  · simp [set] at cleared
  · simp [plainWrite_irqFlag hp, set] at cleared
  · cases bit6 : frameSuppress v with
    | true => exact .inr (.inl ⟨v, rfl, bit6⟩)
    | false =>
      have kept : u.irqFlag = s.irqFlag := hw.outcome (R := fun u => u.irqFlag = s.irqFlag) (writeFrame_irqFlag bit6 s)
        (fun _ h => h) fun _ h => h
      rw [kept, set] at cleared
      cases cleared
  · by_contra other
    have held : FlagHeld s := ⟨set, fun pc v hp => Bool.eq_false_iff.mpr fun bit6 =>
      other (.inr (.inr ⟨t, pc, v, rfl, hp, bit6⟩))⟩
    have kept : u.irqFlag = true := hr.outcome (R := fun u => u.irqFlag = true)
      (runTo_post (fun s hs _ => runIteration_flagHeld _ s hs) s held) (fun _ h => h.1) fun _ h => h.1
    rw [kept] at cleared
    cases cleared
  · exact .inl ⟨c, rfl⟩
  · simp [set] at cleared

/-! ## A masked sequencer (R347, R348) -/

/-- A `$17` write never sets the flag. -/
theorem writeFrame_keeps_clear (v : Byte) {s : State} (h : s.irqFlag = false) :
    Post (writeFrame v s) (fun u => u.irqFlag = false) (fun e => e.irqFlag = false) :=
  writeFrame_post (fun _ _ => by simp [h]) (fun _ => by simp [h])
    fun _ => applyFrame_post (fun _ => by simp [h]) fun _ => by simp [h]

/-- A register write and the query never set the flag. -/
theorem exec_write_keeps_clear {i : Instr} {s u : State} (hi : isWrite i = true ∨ i = .qry) (hu : exec i s = .next u)
    (h : s.irqFlag = false) : u.irqFlag = false := by
  rcases exec_cases hu with
    ⟨-, r, -, rfl⟩ | ⟨-, ⟨s', hp, rfl⟩ | ⟨v, rfl, hw⟩ | ⟨t, rfl, -⟩ | ⟨c, rfl, -⟩ | ⟨rfl, rfl⟩⟩
  · exact h
  · exact (plainWrite_irqFlag hp).trans h
  · exact hw.outcome (R := fun u => u.irqFlag = false) (writeFrame_keeps_clear v h) (fun _ h => h) fun _ h => h
  · rcases hi with hi | hi <;> cases hi
  · rcases hi with hi | hi <;> cases hi
  · exact h

/-- No write is pending, no step can raise, and where `quiet` says so the flag is clear. -/
def Masked (quiet : Bool) (s : State) : Prop :=
  s.pending = none ∧ (s.mode = .fiveStep ∨ s.suppress = true) ∧ (quiet = true → s.irqFlag = false)

theorem Masked.clear {quiet : Bool} {s : State} (h : Masked quiet s) : quiet = true → s.irqFlag = false := h.2.2

/-- A masked sequencer's iteration raises nothing and leaves it masked. -/
theorem runIteration_masked {quiet : Bool} (t : Nat) (s : State) (h : Masked quiet s) :
    Post (runIteration t s) (fun p => Masked quiet p.1 ∧ p.2 = none) (Masked quiet) := by
  refine runIteration_post (Q := fun u i => Masked quiet u ∧ i = none)
    (eventsAt_post (Q1 := fun u i => Masked quiet u ∧ i = none) (Q2 := fun u i => Masked quiet u ∧ i = none)
      (Q3 := fun u i => Masked quiet u ∧ i = none) ?_ ?_ ?_)
  · have played : Masked quiet (play s.globalCyc (nextBoundary t s) s) := by simpa [Masked] using h
    generalize play s.globalCyc (nextBoundary t s) s = w at played ⊢
    obtain ⟨idle, mask, clear⟩ := played
    refine tickIfDue_post (fun _ => ⟨⟨idle, mask, clear⟩, rfl⟩)
      fun _ => tickEvent_post (fun _ => ?_) fun _ => ⟨idle, mask, clear⟩
    obtain ⟨raised, flag⟩ := stepActions_masked (k := w.tick + 1) (s := { w with
      tick := w.tick + 1, nextTickCyc := nextBoundary t s + tickDelta w.mode (w.tick + 1) }) mask
    exact ⟨⟨by simpa using idle, by simpa using mask, fun q => flag.trans (clear q)⟩, raised⟩
  · rintro u i ⟨hu, rfl⟩
    exact transferIfDue_post (fun _ => ⟨hu, rfl⟩) fun _ => transfer_post (fun _ => ⟨hu, rfl⟩) fun _ => hu
  · rintro u i ⟨hu, rfl⟩
    refine resolveIfDue_post (fun _ => ⟨hu, rfl⟩) fun v hp => ?_
    rw [hu.1] at hp
    cases hp

/-- A loop none of whose iterations raises anything returns what it started with. -/
theorem runLoop_raises_nothing {t : Nat} {P E : State → Prop}
    (hit : ∀ s, P s → s.globalCyc < t → Post (runIteration t s) (fun p => P p.1 ∧ p.2 = none) E) (fuel : Nat)
    (s : State) (irq : Option Interrupt) (h : P s) : Post (runLoop fuel t s irq) (fun p => P p.1 ∧ p.2 = irq) E := by
  induction fuel generalizing s with
  | zero => exact ⟨h, rfl⟩
  | succ fuel ih =>
    by_cases ahead : s.globalCyc < t
    · have step := hit s h ahead
      cases hi : runIteration t s with
      | error e =>
        rw [runLoop_step_error ahead hi]
        exact step.of_error hi
      | ok p =>
        obtain ⟨kept, raised⟩ := step.of_ok hi
        rw [runLoop_step_ok ahead hi, raised, orIrq_none]
        exact ih _ kept
    · rw [runLoop_stop (Nat.le_of_not_lt ahead)]
      exact ⟨h, rfl⟩

theorem runTo_masked {quiet : Bool} (t : Nat) {s : State} (h : Masked quiet s) :
    Post (runTo t s) (fun p => Masked quiet p.1 ∧ p.2 = none) (Masked quiet) :=
  runLoop_raises_nothing (fun s hs _ => runIteration_masked t s hs) _ s none h

/-- What an operation returns that reports no interrupt. -/
def NoInterrupt (r : OpResult) : Prop := r ≠ .interrupt (some .frame) ∧ ∀ b, r ≠ .status (some .frame) b

theorem readStatus_masked {quiet : Bool} (c : Nat) {s : State} (h : Masked quiet s) :
    Post (readStatus c s) (fun p => Masked quiet p.1 ∧ NoInterrupt p.2) (Masked quiet) := by
  have first := runTo_masked (c - 1) h
  unfold readStatus
  cases h1 : runTo (c - 1) s with
  | error e => exact first.of_error h1
  | ok p =>
    obtain ⟨⟨idle, mask, -⟩, raised1⟩ := first.of_ok h1
    have second := runTo_masked (quiet := quiet) c (s := clearIrq p.1) ⟨idle, mask, fun _ => rfl⟩
    dsimp only
    cases h2 : runTo c (clearIrq p.1) with
    | error e => exact second.of_error h2
    | ok q =>
      obtain ⟨kept, raised2⟩ := second.of_ok h2
      exact ⟨kept, by simp [NoInterrupt, raised1, raised2]⟩

/-- A state that has logged one result which reports no interrupt, its flag clear where `quiet` says so. -/
def RaisedNothing (quiet : Bool) (s u : State) : Prop :=
  (quiet = true → u.irqFlag = false) ∧ ∃ r, u.results = s.results ++ [r] ∧ NoInterrupt r

theorem raisedNothing_logResult {quiet : Bool} {s s' : State} {r : OpResult} (results : s'.results = s.results)
    (hr : NoInterrupt r) (clear : quiet = true → s'.irqFlag = false) : RaisedNothing quiet s (logResult r s') :=
  ⟨clear, r, by rw [logResult_results, results], hr⟩

/-- Settles O54: writes and the query are `exec_write_keeps_clear`, and each kind of operation logs a result that
reports no interrupt, the runs by `runTo_masked` and `readStatus_masked`. -/
theorem maskedSequencerRaisesNothing : Obligations.MaskedSequencerRaisesNothing := by
  intro i s u hu
  refine ⟨fun hi => exec_write_keeps_clear hi hu, fun idle mask => ?_⟩
  have masked : Masked (!s.irqFlag) s := ⟨idle, mask, by simp⟩
  have nothing : NoInterrupt .nothing := by simp [NoInterrupt]
  have raised : RaisedNothing (!s.irqFlag) s u := by
    rcases exec_cases hu with
      ⟨-, r, hr, rfl⟩ | ⟨-, ⟨s', hp, rfl⟩ | ⟨v, rfl, hw⟩ | ⟨t, rfl, hr⟩ | ⟨c, rfl, hr⟩ | ⟨rfl, rfl⟩⟩
    · exact raisedNothing_logResult rfl (by rcases hr with rfl | rfl <;> simp [NoInterrupt]) masked.clear
    · exact raisedNothing_logResult (plainWrite_sameRun hp).results nothing
        fun q => (plainWrite_irqFlag hp).trans (masked.clear q)
    · have results : u.results = s.results ++ [.nothing] := hw.outcome
        (R := fun u => u.results = s.results ++ [.nothing]) (writeFrame_sameRun v s)
        (fun _ same => congrArg (· ++ _) same.results) fun _ same => congrArg (· ++ _) same.results
      exact ⟨fun q => exec_write_keeps_clear (.inl rfl) hu (masked.clear q), .nothing, results, nothing⟩
    · exact hr.outcome ((runTo_keeps_results _ _).and (runTo_masked _ masked))
        (fun _ ⟨results, kept, raised⟩ => raisedNothing_logResult results (by simp [raised, NoInterrupt]) kept.clear)
        fun _ ⟨results, kept⟩ => raisedNothing_logResult results nothing kept.clear
    · exact hr.outcome ((operation_results_fault (.rdStatus c) s).and (readStatus_masked _ masked))
        (fun _ ⟨⟨results, _⟩, kept, raised⟩ => raisedNothing_logResult results raised kept.clear)
        fun _ ⟨⟨results, _⟩, kept⟩ => raisedNothing_logResult results nothing kept.clear
    · exact raisedNothing_logResult rfl (by simp [NoInterrupt]) masked.clear
  obtain ⟨clear, r, results, noInterrupt⟩ := raised
  refine ⟨fun h => clear (by simp [h]), fun r' results' => ?_⟩
  obtain rfl : r' = r := by simpa using results'.symm.trans results
  exact noInterrupt

end Sys2Proof.Machine
end

section
/-! The invariants of a step (spec/10_state.md, R31, R84, R147, R160): the schedule, the clock, the trace and the
pending write. -/

namespace Sys2Proof.Machine

/-- The induction over the steps and the instructions in one: what the parts keep, a step keeps. -/
theorem step_keeps_of_parts {P : State → Prop} (hlog : ∀ r s, P s → P (logResult r s))
    (hissue : ∀ rest s, P s → P (s.issued rest)) (hraise : ∀ k n s, P s → P (raiseFault k n s))
    (hstore : ∀ i s s', P s → plainWrite i s = some s' → P s')
    (hframe : ∀ v s, P s → s.fault = none → Post (writeFrame v s) P P)
    (hit : ∀ t s, P s → s.fault = none → s.globalCyc < t → t ≤ maxCycle →
      Post (runIteration t s) (fun p => P p.1) P)
    (hclear : ∀ s, P s → P (clearIrq s)) {s u : State} (hs : P s) (h : step s = .next u) : P u :=
  step_keeps hlog hissue hraise (fun _ _ _ hs h => exec_keeps hlog hstore hframe hit hclear hs h) hs h

/-! ## The schedule (R147) and the clock (R31) -/

theorem plainWrite_scheduled {i : Instr} {s s' : State} (h : Scheduled s) (hp : plainWrite i s = some s') :
    Scheduled s' := by
  rw [plainWrite_frame hp]
  exact h

theorem writeFrame_scheduled (v : Byte) {s : State} (h : Scheduled s) : Post (writeFrame v s) Scheduled Scheduled := by
  obtain ⟨tick, transfer, pending⟩ := h
  refine writeFrame_post (fun _ _ => ?_) (fun _ => ?_) fun _ => applyFrame_post (fun _ => ?_) fun _ => ?_
  · refine ⟨by simpa using tick, by simpa using transfer, fun pc v' hp => ?_⟩
    cases hp
    simp
  · exact ⟨by simpa using tick, by simpa using transfer, by simpa using pending⟩
  · have := tickDelta_pos (frameMode v) 0
    exact ⟨by simp; omega, by simpa using transfer, by simp⟩
  · exact ⟨by simpa using tick, by simpa using transfer, by simp⟩

/-- Settles O56: an iteration is `runIteration_scheduled`, and a `$17` write schedules past the clock. -/
theorem stepKeepsTheScheduleAhead : Obligations.StepKeepsTheScheduleAhead := fun _ _ scheduled h =>
  step_keeps_of_parts (fun _ _ hs => hs) (fun _ _ hs => hs) (fun _ _ _ hs => hs) (fun _ _ _ => plainWrite_scheduled)
    (fun v _ hs _ => writeFrame_scheduled v hs)
    (fun _ _ hs _ ahead _ => (runIteration_scheduled hs ahead).mono (fun _ h => h.1) fun _ h => h)
    (fun _ hs => hs) scheduled h

/-- The events due at a cycle do not move the clock, which the loop does after them (R140). -/
theorem eventsAt_globalCyc (n : Nat) (s : State) :
    Post (eventsAt n s) (fun p => p.1.globalCyc = s.globalCyc) (fun e => e.globalCyc = s.globalCyc) :=
  eventsAt_keeps (P := fun u => u.globalCyc = s.globalCyc)
    (fun _ _ hu => tickEvent_post (fun _ => by simpa using hu) fun _ => hu)
    (fun _ _ hu => transfer_post (fun _ => hu) fun _ => hu)
    (fun _ _ _ hu _ => applyFrame_post (fun _ => by simpa using hu) fun _ => hu) n s rfl

theorem runIteration_globalCyc (t : Nat) (s : State) :
    Post (runIteration t s) (fun p => p.1.globalCyc = nextBoundary t s) (fun e => e.globalCyc = s.globalCyc) :=
  runIteration_post (Q := fun u _ => u.globalCyc = nextBoundary t s)
    ((eventsAt_globalCyc _ _).mono (fun _ _ => rfl) fun _ h => h.trans (play_globalCyc _ _ _))

/-- Settles O55: with the schedule ahead an iteration's boundary is past the clock, and a fault leaves the clock. -/
theorem clockIsNeverRewound : Obligations.ClockIsNeverRewound := by
  intro s u scheduled h
  have kept : Scheduled u ∧ s.globalCyc ≤ u.globalCyc := by
    refine step_keeps_of_parts (P := fun u => Scheduled u ∧ s.globalCyc ≤ u.globalCyc) (fun _ _ hs => hs)
      (fun _ _ hs => hs) (fun _ _ _ hs => hs) (fun i w w' hw hp => ?_) (fun v w hw _ => ?_) (fun t w hw _ ahead _ => ?_)
      (fun _ hs => hs) ⟨scheduled, Nat.le_refl _⟩ h
    · exact ⟨plainWrite_scheduled hw.1 hp, hw.2.trans_eq (plainWrite_sameRun hp).globalCyc.symm⟩
    · exact ((writeFrame_scheduled v hw.1).and (writeFrame_sameRun v w)).mono
        (fun _ ⟨ahead, same⟩ => ⟨ahead, hw.2.trans_eq same.globalCyc.symm⟩)
        fun _ ⟨ahead, same⟩ => ⟨ahead, hw.2.trans_eq same.globalCyc.symm⟩
    · have later : s.globalCyc ≤ nextBoundary t w := hw.2.trans (Nat.le_of_lt (hw.1.lt_nextBoundary ahead))
      exact ((runIteration_scheduled hw.1 ahead).and (runIteration_globalCyc t w)).mono
        (fun _ ⟨⟨kept, _⟩, clock⟩ => ⟨kept, later.trans_eq clock.symm⟩)
        fun _ ⟨kept, clock⟩ => ⟨kept, hw.2.trans_eq clock.symm⟩
  exact kept.2

/-! ## The trace (R84) -/

/-- The trace has an element for every cycle from the last transfer up to `n`. -/
def TraceUpTo (n : Nat) (s : State) : Prop := s.lastFrameCyc ≤ n ∧ s.trace.length = n - s.lastFrameCyc

theorem TraceUpTo.play {g n : Nat} {s : State} (h : TraceUpTo g s) (le : g ≤ n) : TraceUpTo n (play g n s) := by
  obtain ⟨last, covers⟩ := h
  refine ⟨by rw [play_lastFrameCyc]; omega, ?_⟩
  rw [play_trace_length, covers, play_lastFrameCyc]
  omega

/-- A transfer at `n` starts an empty trace there; the other events do not touch it. -/
theorem eventsAt_traceUpTo (n : Nat) (s : State) (h : TraceUpTo n s) :
    Post (eventsAt n s) (fun p => TraceUpTo n p.1) (fun _ => True) := by
  refine eventsAt_post (Q1 := fun u _ => TraceUpTo n u) (Q2 := fun u _ => TraceUpTo n u)
    (Q3 := fun u _ => TraceUpTo n u) ?_ ?_ ?_
  · exact tickIfDue_post (fun _ => h) fun _ => tickEvent_post (fun _ => by simpa [TraceUpTo] using h) fun _ => trivial
  · exact fun u _ hu => transferIfDue_post (fun _ => hu)
      fun _ => transfer_post (fun _ => by simp [TraceUpTo]) fun _ => trivial
  · exact fun u _ hu => resolveIfDue_post (fun _ => hu)
      fun v _ => applyFrame_post (fun _ => by simpa [TraceUpTo] using hu) fun _ => trivial

theorem runIteration_traceCovers {t : Nat} {s : State} (scheduled : Scheduled s) (covers : TraceCovers s)
    (noFault : s.fault = none) (ahead : s.globalCyc < t) :
    Post (runIteration t s) (fun p => TraceCovers p.1) TraceCovers := by
  have played := TraceUpTo.play (covers noFault) (Nat.le_of_lt (scheduled.lt_nextBoundary ahead))
  have iteration : Post (runIteration t s) (fun p => TraceUpTo p.1.globalCyc p.1) (fun _ => True) :=
    runIteration_post (Q := fun u _ => TraceUpTo u.globalCyc u) (eventsAt_traceUpTo _ _ played)
  refine (iteration.and (runIteration_fault noFault)).mono (fun _ h _ => h.1) fun e h noFault' => ?_
  rw [h.2] at noFault'
  cases noFault'

/-- A register write leaves what the trace invariant speaks of. -/
theorem TraceCovers.of_sameRun {s u : State} (h : TraceCovers s) (noFault : s.fault = none) (same : SameRun s u) :
    TraceCovers u := by
  intro _
  rw [same.globalCyc, same.lastFrameCyc, same.trace]
  exact h noFault

/-- Settles O57: an iteration is `runIteration_traceCovers`, and a fault puts the trace out of the claim. -/
theorem stepKeepsTheTraceInStep : Obligations.StepKeepsTheTraceInStep := by
  intro s u scheduled covers h
  have kept : Scheduled u ∧ TraceCovers u := by
    refine step_keeps_of_parts (P := fun u => Scheduled u ∧ TraceCovers u) (fun _ _ hs => hs) (fun _ _ hs => hs)
      (fun k n w hw => ⟨hw.1, fun noFault => by cases noFault⟩) (fun i w w' hw hp => ?_) (fun v w hw noFault => ?_)
      (fun t w hw noFault ahead _ => ?_) (fun _ hs => hs) ⟨scheduled, covers⟩ h
    · refine ⟨plainWrite_scheduled hw.1 hp, ?_⟩
      rw [plainWrite_frame hp]
      exact hw.2
    · exact ((writeFrame_scheduled v hw.1).and (writeFrame_sameRun v w)).mono
        (fun _ h => ⟨h.1, hw.2.of_sameRun noFault h.2⟩) fun _ h => ⟨h.1, hw.2.of_sameRun noFault h.2⟩
    · exact ((runIteration_scheduled hw.1 ahead).and (runIteration_traceCovers hw.1 hw.2 noFault ahead)).mono
        (fun _ ⟨⟨ahead, _⟩, kept⟩ => ⟨ahead, kept⟩) fun _ h => h
  exact kept.2

/-! ## The pending write (R160, R162) -/

/-- The events due at a cycle leave the pending write or resolve it. -/
theorem eventsAt_pending (n : Nat) (s : State) :
    Post (eventsAt n s) (fun p => p.1.pending = s.pending ∨ p.1.pending = none)
      (fun e => e.pending = s.pending ∨ e.pending = none) :=
  eventsAt_keeps (P := fun u => u.pending = s.pending ∨ u.pending = none)
    (fun _ _ hu => tickEvent_post (fun _ => by simpa using hu) fun _ => hu)
    (fun _ _ hu => transfer_post (fun _ => hu) fun _ => hu)
    (fun _ _ _ _ _ => applyFrame_post (fun _ => by simp) fun _ => .inr rfl) n s (.inl rfl)

/-- An iteration reaches the cycle of a pending write, which is the next one, and so resolves it. -/
theorem runIteration_pendingNext {t : Nat} {s : State} (scheduled : Scheduled s) (next : PendingNext s)
    (ahead : s.globalCyc < t) : Post (runIteration t s) (fun p => PendingNext p.1) PendingNext := by
  have iteration : Post (runIteration t s) (fun p => p.1.pending = s.pending ∨ p.1.pending = none)
      (fun e => e.pending = s.pending ∨ e.pending = none) := by
    refine runIteration_post (Q := fun u _ => u.pending = s.pending ∨ u.pending = none) ?_
    simpa only [play_pending] using eventsAt_pending (nextBoundary t s) (play s.globalCyc (nextBoundary t s) s)
  refine ((iteration.and (runIteration_scheduled scheduled ahead)).and (runIteration_globalCyc t s)).mono
    (fun p h pc v hp => ?_) fun e h pc v hp => ?_
  · obtain ⟨⟨same | resolved, ⟨-, -, later⟩, -⟩, clock⟩ := h
    · have := later pc v hp
      have := next pc v (same ▸ hp)
      have := scheduled.lt_nextBoundary ahead
      omega
    · rw [resolved] at hp
      cases hp
  · obtain ⟨⟨same | resolved, -⟩, clock⟩ := h
    · rw [clock]
      exact next pc v (same ▸ hp)
    · rw [resolved] at hp
      cases hp

/-- A `$17` write waits only from an odd cycle, and then for the next one (R161). -/
theorem writeFrame_pendingNext (v : Byte) {s : State} (h : PendingNext s) :
    Post (writeFrame v s) PendingNext PendingNext := by
  refine writeFrame_post (fun odd _ pc v' hp => ?_) (fun _ => ?_) fun _ => applyFrame_post (fun _ => ?_) fun _ => ?_
  · cases hp
    simp
    omega
  · simpa [PendingNext] using h
  · simp [PendingNext]
  · simp [PendingNext]

/-- Settles O59: a pending write is made by `writeFrame_pendingNext`, and gone after the first iteration of a run. -/
theorem stepKeepsThePendingWriteNext : Obligations.StepKeepsThePendingWriteNext := by
  intro s u scheduled next h
  have kept : Scheduled u ∧ PendingNext u := by
    refine step_keeps_of_parts (P := fun u => Scheduled u ∧ PendingNext u) (fun _ _ hs => hs) (fun _ _ hs => hs)
      (fun _ _ _ hs => hs) (fun i w w' hw hp => ?_) (fun v w hw _ => ?_) (fun t w hw _ ahead _ => ?_) (fun _ hs => hs)
      ⟨scheduled, next⟩ h
    · refine ⟨plainWrite_scheduled hw.1 hp, ?_⟩
      rw [plainWrite_frame hp]
      exact hw.2
    · exact (writeFrame_scheduled v hw.1).and (writeFrame_pendingNext v hw.2)
    · exact ((runIteration_scheduled hw.1 ahead).and (runIteration_pendingNext hw.1 hw.2 ahead)).mono
        (fun _ ⟨⟨ahead, _⟩, kept⟩ => ⟨ahead, kept⟩) fun _ h => h
  exact kept.2

end Sys2Proof.Machine
end

section
/-! The ranges every step keeps (spec/10_state.md R7, R34, R53, R55, R67, R76, R77, R197): the cycles, the step counter,
and the channels' fields, channel by channel. -/

namespace Sys2Proof.Machine

/-! ## The cycles (R7, R343) -/

/-- The next tick and the pending cycle are 64-bit numbers, and the clock is `g`. -/
def CyclesFitAt (g : Nat) (s : State) : Prop :=
  s.globalCyc = g ∧ s.nextTickCyc ≤ maxCycle ∧ ∀ pc v, s.pending = some (pc, v) → pc ≤ maxCycle

theorem eventsAt_cyclesFitAt {g : Nat} (n : Nat) (s : State) (h : CyclesFitAt g s) :
    Post (eventsAt n s) (fun p => CyclesFitAt g p.1) (CyclesFitAt g) := by
  refine eventsAt_keeps (fun n u hu => tickEvent_post (fun fits => ?_) fun _ => hu)
    (fun n u hu => transfer_post (fun _ => hu) fun _ => hu)
    (fun v n u hu _ => applyFrame_post (fun fits => ?_) fun _ => ?_) n s h
  · obtain ⟨clock, -, pending⟩ := hu
    exact ⟨by simpa using clock, by simpa using fits, by simpa using pending⟩
  · obtain ⟨clock, -, -⟩ := hu
    exact ⟨by simpa using clock, by simpa using fits, by simp⟩
  · obtain ⟨clock, tick, -⟩ := hu
    exact ⟨clock, tick, by simp⟩

theorem runIteration_cyclesFit {t : Nat} (ht : t ≤ maxCycle) {s : State} (h : CyclesFit s) :
    Post (runIteration t s) (fun p => CyclesFit p.1) CyclesFit := by
  obtain ⟨clock, tick, pending⟩ := h
  have played : CyclesFitAt s.globalCyc (play s.globalCyc (nextBoundary t s) s) :=
    ⟨by simp, by simpa using tick, by simpa using pending⟩
  refine runIteration_post (Q := fun u _ => CyclesFit u) ((eventsAt_cyclesFitAt _ _ played).mono ?_ ?_)
  · exact fun _ ⟨_, fits⟩ => ⟨Nat.le_trans (nextBoundary_le t s).1 ht, fits⟩
  · exact fun _ ⟨same, fits⟩ => ⟨same.trans_le clock, fits⟩

theorem writeFrame_cyclesFit (v : Byte) {s : State} (h : CyclesFit s) : Post (writeFrame v s) CyclesFit CyclesFit := by
  obtain ⟨clock, tick, pending⟩ := h
  refine writeFrame_post (fun _ fits => ?_) (fun _ => ?_) fun _ => applyFrame_post (fun fits => ?_) fun _ => ?_
  · refine ⟨by simpa using clock, by simpa using tick, fun pc v' hp => ?_⟩
    cases hp
    exact fits
  · exact ⟨by simpa using clock, by simpa using tick, by simpa using pending⟩
  · exact ⟨by simpa using clock, by simpa using fits, by simp⟩
  · exact ⟨by simpa using clock, by simpa using tick, by simp⟩

theorem step_keeps_cyclesFit {s u : State} (h : CyclesFit s) (hu : step s = .next u) : CyclesFit u :=
  step_keeps_of_parts (fun _ _ hs => hs) (fun _ _ hs => hs) (fun _ _ _ hs => hs)
    (fun _ _ _ hs hp => by rw [plainWrite_frame hp]; exact hs) (fun v _ hs _ => writeFrame_cyclesFit v hs)
    (fun _ _ hs _ _ ht => runIteration_cyclesFit ht hs) (fun _ hs => hs) h hu

/-! ## The step counter (R34) -/

theorem lastIdleStep_lt (m : FrameMode) : lastIdleStep m < 5 := by
  cases m <;> decide

/-- The last step of a mode wraps the counter, an earlier one leaves it within the range (R152). -/
theorem stepActions_tick_le {m : FrameMode} {s : State} (h : s.tick ≤ lastIdleStep m + 1) :
    (stepActions m s.tick s).1.tick ≤ lastIdleStep m := by
  rcases Nat.lt_or_eq_of_le h with before | last
  · rcases stepActions_tick m s.tick s with same | wrapped
    · rw [same]
      exact Nat.le_of_lt_succ before
    · rw [wrapped]
      exact Nat.zero_le _
  · rw [last]
    cases m
    · exact Nat.zero_le _
    · exact Nat.zero_le _

/-- No fault is recorded, and the step counter is in its mode's range. -/
def StepIdle (s : State) : Prop := s.fault = none ∧ s.tick ≤ lastIdleStep s.mode

theorem StepIdle.inRange {s : State} (h : StepIdle s) : StepInRange s := by
  have := lastIdleStep_lt s.mode
  exact ⟨by have := h.2; omega, fun _ => h.2⟩

/-- A faulted state's counter may have been counted past its mode's range, but not past 5. -/
theorem stepInRange_raiseFault {s : State} (h : s.tick ≤ 5) (k : Fault) (n : Nat) : StepInRange (raiseFault k n s) :=
  ⟨h, fun noFault => by cases noFault⟩

theorem tickEvent_stepInRange (n : Nat) {s : State} (h : StepIdle s) :
    Post (tickEvent n s) (fun p => StepIdle p.1) StepInRange := by
  obtain ⟨noFault, tick⟩ := h
  refine tickEvent_post (fun _ => ⟨by simpa using noFault, ?_⟩) fun k => stepInRange_raiseFault ?_ _ _
  · rw [stepActions_mode]
    exact stepActions_tick_le (s := { s with
      tick := s.tick + 1, nextTickCyc := n + tickDelta s.mode (s.tick + 1) }) (Nat.succ_le_succ tick)
  · have := lastIdleStep_lt s.mode
    exact Nat.le_trans (Nat.succ_le_succ tick) this

/-- Applying a `$17` write starts its mode at step 0 (R159). -/
theorem applyFrame_stepInRange (v : Byte) (e : Nat) {s : State} (h : s.fault = none) :
    Post (applyFrame v e s) StepIdle StepInRange :=
  applyFrame_post (fun _ => ⟨by simpa using h, by simp⟩) fun _ => stepInRange_raiseFault (Nat.zero_le _) _ _

theorem runIteration_stepInRange (t : Nat) {s : State} (h : StepIdle s) :
    Post (runIteration t s) (fun p => StepInRange p.1) StepInRange := by
  have played : StepIdle (play s.globalCyc (nextBoundary t s) s) := by simpa [StepIdle] using h
  refine runIteration_post (Q := fun u _ => StepInRange u) (Post.mono (eventsAt_post (Q1 := fun u _ => StepIdle u)
    (Q2 := fun u _ => StepIdle u) (Q3 := fun u _ => StepIdle u) ?_ ?_ ?_)
    (fun _ hp => StepIdle.inRange hp) fun _ h => h)
  · exact tickIfDue_post (fun _ => played) fun _ => tickEvent_stepInRange _ played
  · exact fun u _ hu => transferIfDue_post (fun _ => hu)
      fun _ => transfer_post (fun _ => hu)
        fun k => stepInRange_raiseFault (s := flushBlock (nextBoundary t s) u) hu.inRange.1 _ k
  · exact fun u _ hu => resolveIfDue_post (fun _ => hu) fun v _ => applyFrame_stepInRange v _ hu.1

theorem writeFrame_stepInRange (v : Byte) {s : State} (h : StepIdle s) :
    Post (writeFrame v s) StepInRange StepInRange := by
  refine writeFrame_post (fun _ _ => ?_) (fun _ => ?_) fun _ => ?_
  · exact StepIdle.inRange ⟨by simpa using h.1, by simpa using h.2⟩
  · exact stepInRange_raiseFault (by simpa using h.inRange.1) _ _
  · exact (applyFrame_stepInRange v _ (by simpa using h.1)).mono (fun _ hu => hu.inRange) fun _ he => he

theorem step_keeps_stepInRange {s u : State} (h : StepInRange s) (hu : step s = .next u) : StepInRange u :=
  step_keeps_of_parts (fun _ _ hs => hs) (fun _ _ hs => hs) (fun _ _ _ hs => stepInRange_raiseFault hs.1 _ _)
    (fun _ _ _ hs hp => by rw [plainWrite_frame hp]; exact hs)
    (fun v _ hs noFault => writeFrame_stepInRange v ⟨noFault, hs.2 noFault⟩)
    (fun t _ hs noFault _ _ => runIteration_stepInRange t ⟨noFault, hs.2 noFault⟩) (fun _ hs => hs) h hu

/-! ## The channels (R53, R55, R67, R76, R77, R197) -/

/-- A length unit that is disabled is at 0 (R197). -/
def LengthUnit.InRange (l : LengthUnit) : Prop := l.enabled = false → l.count = 0

/-- A pulse channel's timer, constant and length unit; `second` is the constant of R55. -/
def Pulse.InRange (second : Bool) (p : Pulse) : Prop :=
  p.timerCtr ≤ 4095 ∧ p.isSecond = second ∧ p.len.InRange

/-- The triangle's timer and length unit. -/
def Triangle.InRange (t : Triangle) : Prop := t.timerCtr ≤ 2047 ∧ t.len.InRange

/-- The noise channel's timer, shift register and length unit. -/
def Noise.InRange (n : Noise) : Prop := n.timerCtr ≤ 4067 ∧ n.lfsr ≠ 0 ∧ n.len.InRange

/-- The four channels in range. -/
def ChannelsInRange (s : State) : Prop :=
  s.p1.InRange false ∧ s.p2.InRange true ∧ s.tri.InRange ∧ s.noi.InRange

/-- The four range claims of the statement, channel by channel. -/
theorem channelsInRange_iff (s : State) :
    ChannelsInRange s ↔ TimersInRange s ∧ ConstantsHold s ∧ LfsrAlive s ∧ DisabledInactive s := by
  constructor
  · rintro ⟨⟨timer1, first, len1⟩, ⟨timer2, second, len2⟩, ⟨timerTri, lenTri⟩, timerNoi, alive, lenNoi⟩
    exact ⟨⟨timer1, timer2, timerTri, timerNoi⟩, ⟨first, second⟩, alive, len1, len2, lenTri, lenNoi⟩
  · rintro ⟨⟨timer1, timer2, timerTri, timerNoi⟩, ⟨first, second⟩, alive, len1, len2, lenTri, lenNoi⟩
    exact ⟨⟨timer1, first, len1⟩, ⟨timer2, second, len2⟩, ⟨timerTri, lenTri⟩, ⟨timerNoi, alive, lenNoi⟩⟩

section pulse
variable {second : Bool} {p : Pulse}

theorem Pulse.InRange.stepTimer (h : p.InRange second) : p.stepTimer.InRange second := by
  obtain ⟨timer, constant, len⟩ := h
  refine ⟨?_, by rwa [Pulse.stepTimer_isSecond], by rwa [Pulse.stepTimer_len]⟩
  by_cases expired : p.timerCtr = 0
  · have := p.period.isLt
    rw [Pulse.stepTimer_expired expired]
    dsimp only
    omega
  · rw [Pulse.stepTimer_running expired]
    exact Nat.le_trans (Nat.sub_le _ _) timer

theorem Pulse.InRange.lengthClock (h : p.InRange second) : p.lengthClock.InRange second := by
  obtain ⟨timer, constant, len⟩ := h
  refine ⟨by simpa [Pulse.lengthClock] using timer, by simpa [Pulse.lengthClock] using constant, ?_⟩
  rw [Pulse.lengthClock, Pulse.sweepClock_len]
  exact LengthUnit.clock_inactive p.env.halt p.len len

theorem Pulse.InRange.writeTimerHigh (h : p.InRange second) (v : Byte) : (p.writeTimerHigh v).InRange second :=
  have ⟨timer, constant, len⟩ := h
  ⟨timer, constant, LengthUnit.load_inactive v p.len len⟩

theorem Pulse.InRange.setEnable (h : p.InRange second) (b : Bool) :
    Pulse.InRange second { p with len := p.len.setEnable b } :=
  have ⟨timer, constant, _⟩ := h
  ⟨timer, constant, LengthUnit.setEnable_inactive b p.len⟩

end pulse

section triangle
variable {t : Triangle}

theorem Triangle.InRange.stepTimer (h : t.InRange) : t.stepTimer.InRange := by
  obtain ⟨timer, len⟩ := h
  refine ⟨?_, by rwa [Triangle.stepTimer_len]⟩
  by_cases expired : t.timerCtr = 0
  · rw [Triangle.stepTimer_expired expired]
    exact Nat.le_of_lt_succ t.period.isLt
  · rw [Triangle.stepTimer_running expired]
    exact Nat.le_trans (Nat.sub_le _ _) timer

theorem Triangle.InRange.lengthClock (h : t.InRange) : t.lengthClock.InRange :=
  have ⟨timer, len⟩ := h
  ⟨timer, LengthUnit.clock_inactive t.control t.len len⟩

theorem Triangle.InRange.writeTimerHigh (h : t.InRange) (v : Byte) : (t.writeTimerHigh v).InRange :=
  have ⟨timer, len⟩ := h
  ⟨timer, LengthUnit.load_inactive v t.len len⟩

theorem Triangle.InRange.setEnable (h : t.InRange) (b : Bool) :
    Triangle.InRange { t with len := t.len.setEnable b } :=
  ⟨h.1, LengthUnit.setEnable_inactive b t.len⟩

end triangle

section noise
variable {n : Noise}

theorem noisePeriod_le (i : BitVec 4) : noisePeriod i ≤ 4068 := by
  revert i
  decide

/-- The register does not run empty: were the shifted one 0, its bits 1 to 14 would be, so its tap, and with the
feedback its bit 0 (R77). -/
theorem shiftLfsr_ne_zero (m : TapMode) {r : BitVec 15} (h : r ≠ 0) : shiftLfsr m r ≠ 0 := by
  intro zero
  have upper : ∀ k < 14, r.getLsbD (k + 1) = false := fun k hk => by
    rw [← shiftLfsr_low m r hk, zero]
    simp
  have tap : r.getLsbD (if m = .short then 6 else 1) = false := by
    cases m
    · exact upper 0 (by decide)
    · exact upper 5 (by decide)
  have lowest : r.getLsbD 0 = false := by
    have top := shiftLfsr_top m r
    rw [zero, tap, Bool.xor_false] at top
    exact top.symm.trans (by simp)
  refine h (BitVec.eq_of_getLsbD_eq fun k hk => ?_)
  cases k with
  | zero => simpa using lowest
  | succ k => simpa using upper k (by omega)

theorem Noise.InRange.stepTimer (h : n.InRange) : n.stepTimer.InRange := by
  obtain ⟨timer, alive, len⟩ := h
  by_cases expired : n.timerCtr = 0
  · have := noisePeriod_le n.periodIdx
    rw [Noise.stepTimer_expired expired]
    exact ⟨by dsimp only; omega, shiftLfsr_ne_zero _ alive, len⟩
  · rw [Noise.stepTimer_running expired]
    exact ⟨Nat.le_trans (Nat.sub_le _ _) timer, alive, len⟩

theorem Noise.InRange.lengthClock (h : n.InRange) : n.lengthClock.InRange :=
  have ⟨timer, alive, len⟩ := h
  ⟨timer, alive, LengthUnit.clock_inactive n.env.halt n.len len⟩

theorem Noise.InRange.writeLength (h : n.InRange) (v : Byte) : (n.writeLength v).InRange :=
  have ⟨timer, alive, len⟩ := h
  ⟨timer, alive, LengthUnit.load_inactive v n.len len⟩

theorem Noise.InRange.setEnable (h : n.InRange) (b : Bool) : Noise.InRange { n with len := n.len.setEnable b } :=
  have ⟨timer, alive, _⟩ := h
  ⟨timer, alive, LengthUnit.setEnable_inactive b n.len⟩

end noise

theorem ChannelsInRange.playCycle {s : State} (h : ChannelsInRange s) : ChannelsInRange (playCycle s) :=
  have ⟨h1, h2, h3, h4⟩ := h
  ⟨h1.stepTimer, h2.stepTimer, h3.stepTimer, h4.stepTimer⟩

theorem ChannelsInRange.envelopeClock {s : State} (h : ChannelsInRange s) : ChannelsInRange (envelopeClock s) := h

theorem ChannelsInRange.lengthClock {s : State} (h : ChannelsInRange s) : ChannelsInRange (lengthClock s) :=
  have ⟨h1, h2, h3, h4⟩ := h
  ⟨h1.lengthClock, h2.lengthClock, h3.lengthClock, h4.lengthClock⟩

/-- Only the top registers and the enable register reach a length unit; the other writes leave what the ranges speak
of. -/
theorem ChannelsInRange.plainWrite {i : Instr} {s s' : State} (h : ChannelsInRange s) (hp : plainWrite i s = some s') :
    ChannelsInRange s' := by
  obtain ⟨h1, h2, h3, h4⟩ := h
  cases i <;> cases hp
  case wrP1Thi v => exact ⟨h1.writeTimerHigh v, h2, h3, h4⟩
  case wrP2Thi v => exact ⟨h1, h2.writeTimerHigh v, h3, h4⟩
  case wrTriThi v => exact ⟨h1, h2, h3.writeTimerHigh v, h4⟩
  case wrNoiLen v => exact ⟨h1, h2, h3, h4.writeLength v⟩
  case wrEnable v => exact ⟨h1.setEnable _, h2.setEnable _, h3.setEnable _, h4.setEnable _⟩
  all_goals exact ⟨h1, h2, h3, h4⟩

theorem ChannelsInRange.clearIrqIf {s : State} (h : ChannelsInRange s) (b : Bool) :
    ChannelsInRange (clearIrqIf b s) := by
  cases b <;> exact h

theorem ChannelsInRange.immediateClock {s : State} (h : ChannelsInRange s) (m : FrameMode) :
    ChannelsInRange (immediateClock m s) := by
  cases m
  · exact h
  · exact h.envelopeClock.lengthClock

theorem ChannelsInRange.stepActions {s : State} (h : ChannelsInRange s) (m : FrameMode) (k : Nat) :
    ChannelsInRange (stepActions m k s).1 :=
  stepActions_keeps (fun _ hu => hu.envelopeClock) (fun _ hu => hu.lengthClock) (fun _ _ hu => hu) (fun _ hu => hu)
    m k s h

theorem applyFrame_channelsInRange (v : Byte) (e : Nat) {s : State} (h : ChannelsInRange s) :
    Post (applyFrame v e s) ChannelsInRange ChannelsInRange :=
  applyFrame_post (fun _ => (ChannelsInRange.clearIrqIf (s := { s with
    mode := frameMode v
    suppress := frameSuppress v
    tick := 0
    nextTickCyc := e + tickDelta (frameMode v) 0 }) h _).immediateClock _) fun _ => h

theorem step_keeps_channelsInRange {s u : State} (h : ChannelsInRange s) (hu : step s = .next u) : ChannelsInRange u :=
  step_keeps_of_parts (fun _ _ hs => hs) (fun _ _ hs => hs) (fun _ _ _ hs => hs) (fun _ _ _ hs hp => hs.plainWrite hp)
    (fun v w hs _ => writeFrame_post (fun _ _ => hs.clearIrqIf _) (fun _ => hs.clearIrqIf _)
      fun _ => applyFrame_channelsInRange v _ (s := { Machine.clearIrqIf (frameSuppress v) w with pending := none })
        (hs.clearIrqIf _))
    (fun t w hs _ _ _ => runIteration_keeps (fun _ hu => hu.playCycle)
      (fun n w hu => tickEvent_post (fun _ => ChannelsInRange.stepActions (s := { w with
        tick := w.tick + 1, nextTickCyc := n + tickDelta w.mode (w.tick + 1) }) hu _ _) fun _ => hu)
      (fun _ _ hu => transfer_post (fun _ => hu) fun _ => hu)
      (fun v n w hu _ => applyFrame_channelsInRange v n (s := { w with pending := none }) hu) (fun _ _ hu => hu) t w hs)
    (fun _ hs => hs) h hu

/-- Settles O58: the cycles, the step counter and the channels are each an invariant of their own. -/
theorem stepKeepsTheRanges : Obligations.StepKeepsTheRanges := by
  intro s u cycles counter timers constants alive inactive h
  have channels := (channelsInRange_iff s).mpr ⟨timers, constants, alive, inactive⟩
  exact ⟨step_keeps_cyclesFit cycles h, step_keeps_stepInRange counter h,
    (channelsInRange_iff u).mp (step_keeps_channelsInRange channels h)⟩

end Sys2Proof.Machine
end
